-- ==== Sys2Proof/Word.lean ====
section
/-! DEFINITION. The value types of the block: bytes, event words, message words, and the small closed
types the spec names (`00_scope.md` R8, R9; `10_state.md` R10, R13; `30_encoding.md` R53, R56, R60). -/

namespace Sys2Proof

/-- An 8-bit value, bits 7 to 0, bit 0 the least significant (R8). -/
abbrev Byte := BitVec 8

/-- The 11-bit port encoding of an event (R55). -/
abbrev EventWord := BitVec 11

/-- The 9-bit encoding of an InputMessage (R56). -/
abbrev MessageWord := BitVec 9

/-- The two values of `mode` (R10, R19). -/
inductive Mode where
  | normal
  | escaped
  deriving DecidableEq, Repr

/-- The eight logical controls (R5, R9, R60). -/
inductive Control where
  | left
  | up
  | down
  | select
  | start
  | right
  | option
  | edit
  deriving DecidableEq, Repr

/-- The two escape markers, the only bytes that may follow `ESC` (R48). -/
inductive Marker where
  /-- the byte `ESC_END`, which stands for a literal `END` -/
  | escEnd
  /-- the byte `ESC_ESC`, which stands for a literal `ESC` -/
  | escEsc
  deriving DecidableEq, Repr

/-- The code of a `Special` message (R9, R13). -/
inductive SpecialCode where
  | quit
  | resetDisplay
  deriving DecidableEq, Repr

/-- An InputMessage: `Normal(mask)` or `Special(code)` (R13, R56). -/
inductive Message where
  | normal (mask : Byte)
  | special (code : SpecialCode)
  deriving DecidableEq, Repr

/-- The four symbol formats of `opcode_table.json`, each with the bits of one word. -/
inductive SymbolWord where
  /-- the reset port, one bit (R45) -/
  | rst1 (w : BitVec 1)
  /-- a stream byte (R46) -/
  | feed8 (b : Byte)
  /-- an event (R55) -/
  | ev11 (w : EventWord)
  /-- the message handed from `IT` to `ED` inside one `SAMPLE` (R56, R108) -/
  | msg9 (w : MessageWord)
  deriving DecidableEq, Repr

end Sys2Proof
end

