-- ==== Sys2Proof/Config.lean ====
section
/-! DEFINITION. The implementation parameters of `00_scope.md` R5, and one instance of them. -/

namespace Sys2Proof

/-- The parameters fixed when the block is instantiated (R5, R18). They are a field of the state that
no operation writes, so a statement about every state is a statement about every instance (log 1). -/
structure Config where
  /-- `C`, the capacity of the frame buffer in bytes -/
  capacity : Nat
  /-- `END` -/
  endByte : Byte
  /-- `ESC` -/
  escByte : Byte
  /-- `ESC_END` -/
  escEnd : Byte
  /-- `ESC_ESC` -/
  escEsc : Byte
  /-- `TAG_INPUT` -/
  tagInput : Byte
  /-- `TAG_RESET0` -/
  tagReset0 : Byte
  /-- `TAG_RESET1` -/
  tagReset1 : Byte
  deriving DecidableEq, Repr

/-- The constraints of R5: `C >= 1` and the four protocol bytes pairwise distinct. -/
abbrev Config.WellFormed (c : Config) : Prop :=
  1 ≤ c.capacity ∧
  c.endByte ≠ c.escByte ∧ c.endByte ≠ c.escEnd ∧ c.endByte ≠ c.escEsc ∧
  c.escByte ≠ c.escEnd ∧ c.escByte ≠ c.escEsc ∧ c.escEnd ≠ c.escEsc

/-- `LEN_W`, the least number of bits that holds the value `C` (R5, R15). -/
def Config.lenWidth (c : Config) : Nat :=
  if c.capacity = 0 then 0 else Nat.log2 c.capacity + 1

/-- The tag bytes, to which R5 gives neither a value nor a constraint (log 3). -/
opaque Config.freeTag : Nat → Byte

/-- The contents of cell `i` of `buf` where the spec promises none, at the draw `d`: "any value" (R22, R37,
U1, U2; log 5). -/
opaque Config.freeByte : Nat → Nat → Byte

/-- The contents of cell `i` of `buf` before any `FEED` has stored a byte there (R133, U1; log 5). -/
opaque Config.powerOnByte : Nat → Byte

/-- The instance `State.reset` starts with. The protocol bytes are R5's defaults (PRESUMED, log 2); the
capacity 4 is a DESIGN CHOICE (log 1), the value most vectors of `95_test_vectors.md` use. -/
def Config.standard : Config where
  capacity := 4
  endByte := 0xC0
  escByte := 0xDB
  escEnd := 0xDC
  escEsc := 0xDD
  tagInput := Config.freeTag 0
  tagReset0 := Config.freeTag 1
  tagReset1 := Config.freeTag 2

end Sys2Proof
end

