-- ==== Sys2Proof/Syntax.lean ====
section
/-! DEFINITION. The operations of the block, one constructor per row of `opcode_table.json`
(`30_encoding.md` R64). -/

namespace Sys2Proof

/-- The operations. An `FD` operation is one `FEED`, an `IT` operation the first half of a `SAMPLE`, an
`ED` operation its second half (R108). -/
inductive Instr where
  /-- `FD.DROP.END` (R69) -/
  | fdDropEnd
  /-- `FD.DROP.SKIP` (R68) -/
  | fdDropSkip (b : Byte)
  /-- `FD.N.END.FRAME` (R70) -/
  | fdNEndFrame
  /-- `FD.N.END.EMPTY` (R76) -/
  | fdNEndEmpty
  /-- `FD.N.ESC` (R77) -/
  | fdNEsc
  /-- `FD.N.DATA` (R71) -/
  | fdNData (b : Byte)
  /-- `FD.N.DATA.OVF` (R72) -/
  | fdNDataOvf (b : Byte)
  /-- `FD.E.ESC_END` (R73) -/
  | fdEEscEnd
  /-- `FD.E.ESC_ESC` (R74) -/
  | fdEEscEsc
  /-- `FD.E.OVF` (R78); the operand is the marker that did not fit -/
  | fdEOvf (marker : Marker)
  /-- `FD.E.INVALID` (R75) -/
  | fdEInvalid (b : Byte)
  /-- `IT.NONE` (R86) -/
  | itNone
  /-- `IT.PRESS` (R87) -/
  | itPress (c : Control)
  /-- `IT.RELEASE` (R88) -/
  | itRelease (c : Control)
  /-- `IT.HAT` (R89); the flags left, up, down, right -/
  | itHat (l u d r : Bool)
  /-- `IT.SPECIAL.QUIT` (R90) -/
  | itSpecialQuit
  /-- `IT.SPECIAL.RESETDISPLAY` (R91) -/
  | itSpecialResetdisplay
  /-- `IT.HOTPLUG` (R92) -/
  | itHotplug
  /-- `EV.RESERVED` (R62): kind 7 when the flag is set, else kind 6 -/
  | evReserved (kind7 : Bool)
  /-- `ED.SAME` (R105) -/
  | edSame (msg : Message)
  /-- `ED.TXINPUT` (R102) -/
  | edTxinput (m : Byte)
  /-- `ED.TXRESET` (R103) -/
  | edTxreset
  /-- `ED.QUIT` (R104) -/
  | edQuit
  /-- `RESET` (R130) -/
  | reset
  deriving DecidableEq, Repr

end Sys2Proof
end

