-- ==== Sys2Proof/WellFormed.lean ====
section
/-! DEFINITION. Which operands an operation may carry: the column "operand condition" of
`30_encoding.md` R64. -/

namespace Sys2Proof

/-- The operand condition of each row of R64. A row without a byte operand of its own has none: the
byte it stands for is a parameter, and its other operands range over closed types. -/
def Instr.wellFormed (cfg : Config) : Instr → Bool
  | .fdDropSkip b => b != cfg.endByte
  | .fdNData b => b != cfg.endByte && b != cfg.escByte
  | .fdNDataOvf b => b != cfg.endByte && b != cfg.escByte
  | .fdEInvalid b => b != cfg.escEnd && b != cfg.escEsc
  | .fdDropEnd => true
  | .fdNEndFrame => true
  | .fdNEndEmpty => true
  | .fdNEsc => true
  | .fdEEscEnd => true
  | .fdEEscEsc => true
  | .fdEOvf _ => true
  | .itNone => true
  | .itPress _ => true
  | .itRelease _ => true
  | .itHat _ _ _ _ => true
  | .itSpecialQuit => true
  | .itSpecialResetdisplay => true
  | .itHotplug => true
  | .evReserved _ => true
  | .edSame _ => true
  | .edTxinput _ => true
  | .edTxreset => true
  | .edQuit => true
  | .reset => true

end Sys2Proof
end

