-- ==== Sys2Proof/Decode.lean ====
section
/-! DEFINITION. From a symbol to the operation it selects, and back (`30_encoding.md`).

Which operation a `FEED` byte or a message selects depends on the state as well as on the symbol (R46,
R64), so decoding takes the part of the state that R64 names: a `Context`. -/

namespace Sys2Proof

/-! ## Operand fields (R55, R56, R60) -/

/-- The bit index of a control (R5, R60). -/
def Control.index : Control → BitVec 3
  | .left => 7
  | .up => 6
  | .down => 5
  | .select => 4
  | .start => 3
  | .right => 2
  | .option => 1
  | .edit => 0

/-- The control at a bit index (R60). -/
def Control.ofIndex (i : BitVec 3) : Control :=
  match i.toNat with
  | 7 => .left
  | 6 => .up
  | 5 => .down
  | 4 => .select
  | 3 => .start
  | 2 => .right
  | 1 => .option
  | _ => .edit

/-- The 9-bit encoding of a message: bit 8 is 1 for `Special` (R56). -/
def Message.encode : Message → MessageWord
  | .normal m => (0 : BitVec 1) ++ m
  | .special .quit => (1 : BitVec 1) ++ (0x00 : Byte)
  | .special .resetDisplay => (1 : BitVec 1) ++ (0x01 : Byte)

/-- The message a 9-bit word encodes; R56: "No other value is ever produced". -/
def Message.ofWord (w : MessageWord) : Option Message :=
  let payload := w.extractLsb' 0 8
  if w.getLsbD 8 then
    if payload = 0x00 then some (.special .quit)
    else if payload = 0x01 then some (.special .resetDisplay)
    else none
  else some (.normal payload)

/-- An event word from its kind and its argument (R55). -/
def eventWord (kind : BitVec 3) (arg : Byte) : EventWord := kind ++ arg

/-- One flag as bit `i` of an argument byte. -/
def flagAt (b : Bool) (i : Nat) : Byte := (BitVec.ofBool b).setWidth 8 <<< i

/-! ## Selection (R47 to R49, R55, R64, R67) -/

/-- What selection reads of the state (R64): the decoder's control state and count, and `last`. -/
structure Context where
  drop : Bool
  mode : Mode
  len : Nat
  last : Message
  deriving DecidableEq, Repr

/-- The context after `RESET` (R22). -/
def Context.afterReset : Context := ⟨false, .normal, 0, .normal 0⟩

/-- Classification with `drop = 0`, `mode = Normal` (R47). -/
def decodeNormal (cfg : Config) (len : Nat) (b : Byte) : Instr :=
  if b = cfg.endByte then (if 0 < len then .fdNEndFrame else .fdNEndEmpty)
  else if b = cfg.escByte then .fdNEsc
  else if len < cfg.capacity then .fdNData b
  else .fdNDataOvf b

/-- Classification with `drop = 0`, `mode = Escaped`: the class before the capacity (R48). -/
def decodeEscaped (cfg : Config) (len : Nat) (b : Byte) : Instr :=
  if b = cfg.escEnd then (if len < cfg.capacity then .fdEEscEnd else .fdEOvf .escEnd)
  else if b = cfg.escEsc then (if len < cfg.capacity then .fdEEscEsc else .fdEOvf .escEsc)
  else .fdEInvalid b

/-- Classification with `drop = 1` (R49). -/
def decodeDropping (cfg : Config) (b : Byte) : Instr :=
  if b = cfg.endByte then .fdDropEnd else .fdDropSkip b

/-- The operation a `FEED(b)` selects: first `drop`, then `mode` (R46, R67). -/
def decodeFeed (cfg : Config) (c : Context) (b : Byte) : Instr :=
  if c.drop then decodeDropping cfg b
  else match c.mode with
    | .normal => decodeNormal cfg c.len b
    | .escaped => decodeEscaped cfg c.len b

/-- The operation an event word selects: the kind, then the argument bits the kind uses (R55, R62). -/
def decodeEvent (ev : EventWord) : Instr :=
  match (ev.extractLsb' 8 3).toNat with
  | 0 => .itNone
  | 1 => .itPress (.ofIndex (ev.extractLsb' 0 3))
  | 2 => .itRelease (.ofIndex (ev.extractLsb' 0 3))
  | 3 => .itHat (ev.getLsbD 3) (ev.getLsbD 2) (ev.getLsbD 1) (ev.getLsbD 0)
  | 4 => if ev.getLsbD 0 then .itSpecialResetdisplay else .itSpecialQuit
  | 5 => .itHotplug
  | 6 => .evReserved false
  | _ => .evReserved true

/-- The operation that consumes a message: `ED.SAME` when it equals `last`, else by its kind (R64, R101). -/
def decodeMessage (last msg : Message) : Instr :=
  if msg = last then .edSame msg
  else match msg with
    | .normal m => .edTxinput m
    | .special .resetDisplay => .edTxreset
    | .special .quit => .edQuit

/-- Why a word selects no operation. -/
inductive DecodeError where
  /-- the reset port at 0: no operation (R45) -/
  | resetPortLow
  /-- a 9-bit word that encodes no message (R56) -/
  | noSuchMessage
  deriving DecidableEq, Repr

/-- Decoding, total on every word of every format. -/
def decode (cfg : Config) (c : Context) : SymbolWord → Except DecodeError Instr
  | .rst1 w => if w = 1 then .ok .reset else .error .resetPortLow
  | .feed8 b => .ok (decodeFeed cfg c b)
  | .ev11 ev => .ok (decodeEvent ev)
  | .msg9 w =>
    match Message.ofWord w with
    | some msg => .ok (decodeMessage c.last msg)
    | none => .error .noSuchMessage

/-- The column "state condition" of R64, row by row, written apart from the classifiers above. For the
overflow rows "`len = C`" is read as "not `len < C`", the word "else" of R47 and R48 (log 15). -/
def Instr.stateCondition (cfg : Config) (c : Context) : Instr → Bool
  | .fdDropSkip _ => c.drop
  | .fdDropEnd => c.drop
  | .fdNEndFrame => !c.drop && c.mode == .normal && decide (0 < c.len)
  | .fdNEndEmpty => !c.drop && c.mode == .normal && c.len == 0
  | .fdNEsc => !c.drop && c.mode == .normal
  | .fdNData _ => !c.drop && c.mode == .normal && decide (c.len < cfg.capacity)
  | .fdNDataOvf _ => !c.drop && c.mode == .normal && !decide (c.len < cfg.capacity)
  | .fdEEscEnd => !c.drop && c.mode == .escaped && decide (c.len < cfg.capacity)
  | .fdEEscEsc => !c.drop && c.mode == .escaped && decide (c.len < cfg.capacity)
  | .fdEOvf _ => !c.drop && c.mode == .escaped && !decide (c.len < cfg.capacity)
  | .fdEInvalid _ => !c.drop && c.mode == .escaped
  | .itNone => true
  | .itPress _ => true
  | .itRelease _ => true
  | .itHat _ _ _ _ => true
  | .itSpecialQuit => true
  | .itSpecialResetdisplay => true
  | .itHotplug => true
  | .evReserved _ => true
  | .edSame msg => msg == c.last
  | .edTxinput m => Message.normal m != c.last
  | .edTxreset => Message.special .resetDisplay != c.last
  | .edQuit => Message.special .quit != c.last
  | .reset => true

/-- Both condition columns of R64: the operation `i` is the one to run in context `c`. -/
def Instr.selectedIn (cfg : Config) (c : Context) (i : Instr) : Bool :=
  i.wellFormed cfg && i.stateCondition cfg c

/-! ## Encoding -/

/-- The byte a marker stands for in the stream (R48). -/
def Marker.byte (cfg : Config) : Marker → Byte
  | .escEnd => cfg.escEnd
  | .escEsc => cfg.escEsc

/-- The byte a marker stores (R51). -/
def Marker.literal (cfg : Config) : Marker → Byte
  | .escEnd => cfg.endByte
  | .escEsc => cfg.escByte

/-- The word of an operation, in its row's format (`opcode_table.json`); ignored bits are 0. -/
def encode (cfg : Config) : Instr → SymbolWord
  | .fdDropEnd => .feed8 cfg.endByte
  | .fdDropSkip b => .feed8 b
  | .fdNEndFrame => .feed8 cfg.endByte
  | .fdNEndEmpty => .feed8 cfg.endByte
  | .fdNEsc => .feed8 cfg.escByte
  | .fdNData b => .feed8 b
  | .fdNDataOvf b => .feed8 b
  | .fdEEscEnd => .feed8 cfg.escEnd
  | .fdEEscEsc => .feed8 cfg.escEsc
  | .fdEOvf marker => .feed8 (marker.byte cfg)
  | .fdEInvalid b => .feed8 b
  | .itNone => .ev11 (eventWord 0 0)
  | .itPress c => .ev11 (eventWord 1 (c.index.setWidth 8))
  | .itRelease c => .ev11 (eventWord 2 (c.index.setWidth 8))
  | .itHat l u d r => .ev11 (eventWord 3 (flagAt l 3 ||| flagAt u 2 ||| flagAt d 1 ||| flagAt r 0))
  | .itSpecialQuit => .ev11 (eventWord 4 0)
  | .itSpecialResetdisplay => .ev11 (eventWord 4 1)
  | .itHotplug => .ev11 (eventWord 5 0)
  | .evReserved kind7 => .ev11 (eventWord (if kind7 then 7 else 6) 0)
  | .edSame msg => .msg9 msg.encode
  | .edTxinput m => .msg9 (Message.encode (.normal m))
  | .edTxreset => .msg9 (Message.encode (.special .resetDisplay))
  | .edQuit => .msg9 (Message.encode (.special .quit))
  | .reset => .rst1 1

/-- The bits of an event word that its kind uses; the others are ignored (R55, R62). -/
def Instr.eventBits : Instr → EventWord
  | .itPress _ => 0x707
  | .itRelease _ => 0x707
  | .itHat _ _ _ _ => 0x70F
  | .itSpecialQuit => 0x701
  | .itSpecialResetdisplay => 0x701
  | _ => 0x700

/-- A word with the bits its operation ignores set to 0. -/
def SymbolWord.significant (i : Instr) : SymbolWord → SymbolWord
  | .ev11 w => .ev11 (w &&& i.eventBits)
  | w => w

/-! ## The stream encoding of a frame (R63) -/

/-- `esc(x)` of R63. -/
def slipEscape (cfg : Config) (x : Byte) : List Byte :=
  if x = cfg.endByte then [cfg.escByte, cfg.escEnd]
  else if x = cfg.escByte then [cfg.escByte, cfg.escEsc]
  else [x]

/-- The escaped bytes of a sequence, without a terminator. -/
def slipBody (cfg : Config) : List Byte → List Byte
  | [] => []
  | x :: xs => slipEscape cfg x ++ slipBody cfg xs

/-- `slip_encode(S)` (R63). -/
def slipEncode (cfg : Config) (S : List Byte) : List Byte := slipBody cfg S ++ [cfg.endByte]

/-- `slip_encode_flush(S)` (R63). -/
def slipEncodeFlush (cfg : Config) (S : List Byte) : List Byte := cfg.endByte :: slipEncode cfg S

/-! ## Words numbered as `opcode_table.json` numbers them -/

/-- The symbol a table word stands for. Formats are told apart by width; the one-bit RST1 word and a
FEED8 byte both fill one byte, and the word 1 is read as RST1 (log 19). An MSG9 word is no symbol the
environment presents, so a two-byte word is read as EV11 (log 19). -/
def tableSymbol (nbits w : Nat) : Option SymbolWord :=
  if nbits ≤ 8 then
    if w = 1 then some (.rst1 1)
    else if w < 256 then some (.feed8 (BitVec.ofNat 8 w))
    else none
  else if w < 2048 then some (.ev11 (BitVec.ofNat 11 w))
  else none

/-- The operation a table word selects in the standard instance right after reset. -/
def decodeTableWord (nbits w : Nat) : Option Instr :=
  match tableSymbol nbits w with
  | some sym =>
    match decode Config.standard Context.afterReset sym with
    | .ok i => some i
    | .error _ => none
  | none => none

end Sys2Proof
end

