-- ==== Sys2Proof/Machine/State.lean ====
section
/-! DEFINITION. The state of the block (`10_state.md`), its input and output ports (`30_encoding.md` R45),
and the reasons a step can stop. -/

namespace Sys2Proof.Machine

/-- The frame buffer `buf` (R10, R30): the bytes stored by `FEED`s so far as (index, byte) pairs, indices
strictly rising. A cell that is not listed holds a free value (R22, U1, log 5). -/
abbrev Buffer := List Host.Cell

/-- The two decoder errors (R112), both of the class `ProtocolError` (R113). -/
inductive DecoderError where
  | overflow
  | invalidEscape
  deriving DecidableEq, Repr

/-- The result of a `FEED` (R57, R65). The bytes of a reported frame are those of `buf[0..n-1]`, read
through the frame window that opens with it (R36, R57). -/
inductive DecodeResult where
  | pending
  | frameReady (n : Nat)
  | error (kind : DecoderError)
  deriving DecidableEq, Repr

/-- The action of a `SAMPLE` (R58). -/
inductive Action where
  | noAction
  | txInput (m : Byte)
  | txResetDisplay
  | quitReq
  deriving DecidableEq, Repr

/-- Why the frame read port gives a read no meaning (R37). -/
inductive ReadRefusal where
  /-- no frame window is open -/
  | windowClosed
  /-- a window is open on `n` bytes and the index is `n` or more -/
  | beyondFrame
  deriving DecidableEq, Repr

/-- What the frame read port answers (R36, R37): a byte, or a refusal of this one read. -/
inductive FrameRead where
  | byte (b : Byte)
  | refused (why : ReadRefusal)
  deriving DecidableEq, Repr

/-- The input ports of one step (R45). `frameIdx` is none when the environment does not look at
`frame_byte` in this step (log 11). -/
structure PortInput where
  rst : Bool := false
  feedValid : Bool := false
  feedByte : Byte := 0
  sampleValid : Bool := false
  ev : EventWord := 0
  frameIdx : Option Nat := none
  deriving DecidableEq, Repr

/-- The output ports of one step (R45); none where the port carries no meaning in that step. -/
structure PortOutput where
  /-- `res` and `frame_len` -/
  res : Option DecodeResult := none
  /-- `msg` -/
  msg : Option Message := none
  /-- `act` and `act_mask` -/
  act : Option Action := none
  /-- `frame_byte` -/
  frameByte : Option FrameRead := none
  deriving DecidableEq, Repr

/-- The state: R10's six variables, the instance's parameters (R5, R18), and four fields of the model's
own: the open frame window (R36, log 12), the number of the current free draw of the unspecified cells of
`buf` (R22, U1, U2, log 5), the outputs of the latest step (R45, log 13) and the symbols still to be
presented (R6, log 10). -/
structure State where
  cfg : Config
  mode : Mode
  drop : Bool
  len : Nat
  buf : Buffer
  key : Byte
  last : Message
  window : Option Nat
  draw : Nat
  out : PortOutput
  inputs : List PortInput
  deriving DecidableEq, Repr

/-- Reasons for a fault. There are none: `93_implementation_defined.md`, "Faults and stuck states: the
block has none" (R128). The type is empty, so no step of the model can fault. -/
inductive Fault where
  deriving DecidableEq, Repr

/-- Reasons for a refusal. -/
inductive Refusal where
  /-- raised by an arm of `exec` whose operation has no meaning yet; safe. No arm raises it now. -/
  | notModelled (mnemonic : String)
  /-- raised by a meaning whose operation the state and operand do not select (R64, R67): the hardware
  never runs it there, and `step` never asks for it; safe (log 14) -/
  | notSelected
  /-- raised by `EV.RESERVED`: a `SAMPLE` of kind 6 or 7 has no meaning (R62); safe (log 17) -/
  | reservedEventKind
  /-- raised by `step` when the instance breaks the constraints of R5 (R128, U5); safe (log 18) -/
  | illFormedInstance
  deriving DecidableEq, Repr

/-- The state right after `RESET` of an instance (R22). -/
def State.resetOf (cfg : Config) : State where
  cfg := cfg
  mode := .normal
  drop := false
  len := 0
  buf := []
  key := 0x00
  last := .normal 0x00
  window := none
  draw := 0
  out := {}
  inputs := []

/-- The state right after reset of the standard instance (R22, log 1). -/
def State.reset : State := State.resetOf Config.standard

end Sys2Proof.Machine
end

