-- ==== Sys2Proof/Machine/Flags.lean ====
section
/-! DEFINITION. The block has no flags (`10_state.md` R17). What other hardware latches in flags, this
block reports on its output ports for one step: their codes (`30_encoding.md` R56 to R58, `10_state.md`
R18) and the wire messages the actions stand for (R59). The codes are the spec's own choice (D9). -/

namespace Sys2Proof.Machine

/-- The bit of `mode` (R10, R18). -/
def modeCode : Mode → BitVec 1
  | .normal => 0
  | .escaped => 1

/-- The code on `res` (R57, R112). -/
def DecodeResult.code : DecodeResult → BitVec 2
  | .pending => 0
  | .frameReady _ => 1
  | .error .overflow => 2
  | .error .invalidEscape => 3

/-- The value on `frame_len`, which has a meaning with `FrameReady` only (R45). -/
def DecodeResult.frameLen : DecodeResult → Option Nat
  | .pending => none
  | .frameReady n => some n
  | .error _ => none

/-- The code on `act` (R58). -/
def Action.code : Action → BitVec 2
  | .noAction => 0
  | .txInput _ => 1
  | .txResetDisplay => 2
  | .quitReq => 3

/-- The value on `act_mask`, which has a meaning with `TxInput` only (R45, R58). -/
def Action.mask : Action → Option Byte
  | .noAction => none
  | .txInput m => some m
  | .txResetDisplay => none
  | .quitReq => none

/-- The wire message an action stands for, first byte first; none is the empty list (R33, R59). -/
def Action.wire (cfg : Config) : Action → List Byte
  | .noAction => []
  | .txInput m => [cfg.tagInput, m]
  | .txResetDisplay => [cfg.tagReset0, cfg.tagReset1]
  | .quitReq => []

end Sys2Proof.Machine
end

