-- ==== Sys2Proof/Machine/Operands.lean ====
section
/-! DEFINITION. Operand assembly: masks, the directional region and hat bits (`30_encoding.md` R60, R61),
and the three updates of the held-control mask (`41_input_debouncer.md` R87 to R89). -/

namespace Sys2Proof.Machine

/-- `1 << c`, the mask bit of a control (R60). -/
def controlMask (c : Control) : Byte := (1 : Byte) <<< c.index.toNat

/-- `DIR_REGION`, the OR of the four direction bits (R5, R61). -/
def dirRegion : Byte :=
  controlMask .left ||| controlMask .up ||| controlMask .down ||| controlMask .right

/-- `hatbits = (l << 7) | (u << 6) | (d << 5) | (r << 2)` (R61). -/
def hatBits (l u d r : Bool) : Byte := flagAt l 7 ||| flagAt u 6 ||| flagAt d 5 ||| flagAt r 2

/-- `key | (1 << c)` (R87). -/
def pressKey (c : Control) (key : Byte) : Byte := key ||| controlMask c

/-- `key & ~(1 << c)` (R88). -/
def releaseKey (c : Control) (key : Byte) : Byte := key &&& ~~~(controlMask c)

/-- `(key & ~DIR_REGION) | hatbits` (R89). -/
def hatKey (l u d r : Bool) (key : Byte) : Byte := (key &&& ~~~dirRegion) ||| hatBits l u d r

end Sys2Proof.Machine
end

