-- ==== Sys2Proof/Machine/Ops.lean ====
section
/-! DEFINITION. The shared operations over the state: the frame buffer, the frame window, the results of
a `FEED`, the two decoder errors and the recovery from Overflow, the message of a `SAMPLE` and the action
on it, `RESET`. The meanings of the operations are written with these. -/

namespace Sys2Proof.Machine

/-! ## The frame buffer (R30, R31, R35, R37) -/

/-- The byte the latest `FEED` that wrote cell `i` stored there, if one did. -/
def Buffer.stored : Buffer → Nat → Option Byte
  | [], _ => none
  | (j, w) :: rest, i => if i = j then some w else Buffer.stored rest i

/-- `MemWrite(i, 1, v)` (R8): one cell changes. -/
def Buffer.write : Buffer → Nat → Byte → Buffer
  | [], i, v => [(i, v)]
  | (j, w) :: rest, i, v =>
    if i < j then (i, v) :: (j, w) :: rest
    else if i = j then (i, v) :: rest
    else (j, w) :: Buffer.write rest i v

/-- What cell `i` reads as that no `FEED` has written: a free value (R133, U1, log 5). -/
def Buffer.unlisted (i : Nat) : Byte := Config.powerOnByte i

/-- `MemRead(i, 1)` (R8): the byte stored, or the free value of a cell nothing has stored to. -/
def Buffer.read (m : Buffer) (i : Nat) : Byte := (m.stored i).getD (Buffer.unlisted i)

/-- The canonical form: indices strictly rising. The value of an unlisted cell is a free constant that no
byte can be compared with, so every cell stored to is listed (log 5). -/
def Buffer.wf : Buffer → Bool
  | [] => true
  | (i, _) :: rest => rest.all (fun c => decide (i < c.1)) && Buffer.wf rest

/-- `[buf[0], ..., buf[n-1]]` (R32). -/
def Buffer.bytes (m : Buffer) (n : Nat) : List Byte := (List.range n).map m.read

/-- Whether the spec promises the contents of cell `i`: a byte of the partial frame (R10) or of the frame an
open window shows (R36). -/
def promised (s : State) (i : Nat) : Bool := decide (i < s.len) || decide (i < s.window.getD 0)

/-- The contents of `buf[i]`: where the spec promises them, the byte; elsewhere any value, drawn anew by
every `FEED` and every `RESET` (R22, R37, U1, U2, log 5). -/
def bufAt (s : State) (i : Nat) : Byte :=
  if promised s i then s.buf.read i else Config.freeByte s.draw i

/-- The partial frame under assembly (R10). -/
def partialFrame (s : State) : List Byte := s.buf.bytes s.len

/-! ## The frame read port and the frame window (R36, R37) -/

/-- The answer of the frame read port at an index: the byte inside the window, a refusal elsewhere. -/
def frameByteAt (s : State) (i : Nat) : FrameRead :=
  match s.window with
  | none => .refused .windowClosed
  | some n => if i < n then .byte (bufAt s i) else .refused .beyondFrame

/-- The frame an open window shows (R36, R38). -/
def windowFrame (s : State) : Option (List Byte) := s.window.map s.buf.bytes

/-! ## Selection -/

/-- The part of the state selection reads (R43, R64). -/
def State.context (s : State) : Context := ⟨s.drop, s.mode, s.len, s.last⟩

/-- Run an operation where it is the selected one (R64), refuse it by name where it is not (log 14). -/
def whenSelected (i : Instr) (s t : State) : Host.Outcome State Fault Refusal :=
  if i.selectedIn s.cfg s.context then .next t else .refused .notSelected

/-! ## `FEED` (R65, R70, R71) -/

/-- Every `FEED` closes the frame window (R36), leaves the unspecified cells of `buf` any value (U2), and
returns one result (R65). -/
def answer (r : DecodeResult) (s : State) : State :=
  { s with window := none, draw := s.draw + 1, out := { s.out with res := some r } }

/-- `MemWrite(len, 1, v); len <- len + 1` (R71, R73, R74). -/
def append (v : Byte) (s : State) : State :=
  { s with buf := s.buf.write s.len v, len := s.len + 1 }

/-- `mode <- m` (R73, R74, R77). -/
def setMode (m : Mode) (s : State) : State := { s with mode := m }

/-- `FrameReady` of all `len` bytes: the frame window opens on them and `len` returns to 0 (R36, R70). -/
def completeFrame (s : State) : State :=
  { s with len := 0, window := some s.len, draw := s.draw + 1,
           out := { s.out with res := some (.frameReady s.len) } }

/-! ## The decoder errors: entry (R114, R115) and recovery (R119) -/

/-- Error entry: the partial frame is discarded, `mode` is `Normal`, nothing is saved; Overflow opens the
drop window (R114), InvalidEscape leaves `drop` as it is (R115). -/
def raiseError (kind : DecoderError) (s : State) : State :=
  let drop := match kind with
    | .overflow => true
    | .invalidEscape => s.drop
  answer (.error kind) { s with len := 0, mode := .normal, drop := drop }

/-- The terminator that ends a drop window: the return from Overflow (R69, R119). -/
def closeDropWindow (s : State) : State := { s with drop := false }

/-! ## `SAMPLE` (R85, R106, R108) -/

/-- `key <- k; msg = Normal(k)`: "always reports current truth" (R85). -/
def reportKey (k : Byte) (s : State) : State :=
  { s with key := k, out := { s.out with msg := some (.normal k) } }

/-- `msg = Special(code)`; `key` unchanged (R90, R91, R95). -/
def reportSpecial (code : SpecialCode) (s : State) : State :=
  { s with out := { s.out with msg := some (.special code) } }

/-- `act = a`; `last` unchanged (R105). -/
def act (a : Action) (s : State) : State := { s with out := { s.out with act := some a } }

/-- `act = a; last <- msg` (R106). -/
def actOn (a : Action) (msg : Message) (s : State) : State := { act a s with last := msg }

/-! ## `RESET` (R130) -/

/-- The writes of `RESET`. `buf` is not written, but its contents become any value: `len` is 0, no window is
open and the free values are drawn anew (R22, log 5). The frame window closes, no output has a meaning. -/
def resetBlock (s : State) : State :=
  { s with mode := .normal, drop := false, len := 0, key := 0x00, last := .normal 0x00,
           window := none, draw := s.draw + 1, out := {} }

/-! ## The ports (R45) -/

/-- A step starts with no output (R17, log 13). -/
def clearOutputs (s : State) : State := { s with out := {} }

/-- The frame read port, looked at after the operations of the step (log 11). -/
def readPort (idx : Option Nat) (s : State) : State :=
  match idx with
  | none => s
  | some i => { s with out := { s.out with frameByte := some (frameByteAt s i) } }

/-- The symbol the environment presents in this step; nothing when it has none left (R45). -/
def presented (s : State) : PortInput := s.inputs.headD {}

/-- The state with that symbol consumed. -/
def consume (s : State) : State := { s with inputs := s.inputs.tail }

/-- The state with one more symbol to present, before all others. -/
def present (p : PortInput) (s : State) : State := { s with inputs := p :: s.inputs }

/-- The ports that present a symbol. The message of an MSG9 word is made inside the block, so no port
presents it (log 19). -/
def portsOf : SymbolWord → PortInput
  | .rst1 w => { rst := w == 1 }
  | .feed8 b => { feedValid := true, feedByte := b }
  | .ev11 ev => { sampleValid := true, ev := ev }
  | .msg9 _ => {}

/-- The ports that present a table word. -/
def portsOfTableWord (nbits w : Nat) : PortInput :=
  match tableSymbol nbits w with
  | some sym => portsOf sym
  | none => {}

end Sys2Proof.Machine
end

