-- ==== Sys2Proof/Machine/EdgeDetector.lean ====
section
/-! DEFINITION. The operations of the edge detector `ED`, the second half of a `SAMPLE`
(`42_edge_detector.md`). -/

namespace Sys2Proof.Machine

/-- `ED.SAME` (R105): `act = NoAction`; `last` unchanged. -/
def execEdSame (msg : Message) (s : State) : Host.Outcome State Fault Refusal :=
  whenSelected (.edSame msg) s (act .noAction s)

/-- `ED.TXINPUT` (R102): `act = TxInput(m); act_mask = m; last <- Normal(m)`. -/
def execEdTxinput (m : Byte) (s : State) : Host.Outcome State Fault Refusal :=
  whenSelected (.edTxinput m) s (actOn (.txInput m) (.normal m) s)

/-- `ED.TXRESET` (R103): `act = TxResetDisplay; last <- Special(ResetDisplay)`. -/
def execEdTxreset (s : State) : Host.Outcome State Fault Refusal :=
  whenSelected .edTxreset s (actOn .txResetDisplay (.special .resetDisplay) s)

/-- `ED.QUIT` (R104): `act = QuitReq; last <- Special(Quit)`. -/
def execEdQuit (s : State) : Host.Outcome State Fault Refusal :=
  whenSelected .edQuit s (actOn .quitReq (.special .quit) s)

end Sys2Proof.Machine
end

