-- ==== Sys2Proof/Machine/FrameDecoder.lean ====
section
/-! DEFINITION. The operations of the frame decoder `FD`, one `FEED` each (`40_framer.md`). -/

namespace Sys2Proof.Machine

/-- `FD.DROP.SKIP` (R68): `result <- Pending`; no state changes. -/
def execFdDropSkip (b : Byte) (s : State) : Host.Outcome State Fault Refusal :=
  whenSelected (.fdDropSkip b) s (answer .pending s)

/-- `FD.DROP.END` (R69): `drop <- 0; result <- Pending`. -/
def execFdDropEnd (s : State) : Host.Outcome State Fault Refusal :=
  whenSelected .fdDropEnd s (answer .pending (closeDropWindow s))

/-- `FD.N.END.FRAME` (R70): `result <- FrameReady(frame); len <- 0`. -/
def execFdNEndFrame (s : State) : Host.Outcome State Fault Refusal :=
  whenSelected .fdNEndFrame s (completeFrame s)

/-- `FD.N.END.EMPTY` (R76): `result <- Pending`; no state changes. -/
def execFdNEndEmpty (s : State) : Host.Outcome State Fault Refusal :=
  whenSelected .fdNEndEmpty s (answer .pending s)

/-- `FD.N.ESC` (R77): `mode <- Escaped; result <- Pending`. -/
def execFdNEsc (s : State) : Host.Outcome State Fault Refusal :=
  whenSelected .fdNEsc s (answer .pending (setMode .escaped s))

/-- `FD.N.DATA` (R71): `MemWrite(len, 1, b); len <- len + 1; result <- Pending`. -/
def execFdNData (b : Byte) (s : State) : Host.Outcome State Fault Refusal :=
  whenSelected (.fdNData b) s (answer .pending (append b s))

/-- `FD.N.DATA.OVF` (R72): `raise Overflow`. -/
def execFdNDataOvf (b : Byte) (s : State) : Host.Outcome State Fault Refusal :=
  whenSelected (.fdNDataOvf b) s (raiseError .overflow s)

/-- `FD.E.ESC_END` (R73): `MemWrite(len, 1, END); len <- len + 1; mode <- Normal; result <- Pending`. -/
def execFdEEscEnd (s : State) : Host.Outcome State Fault Refusal :=
  whenSelected .fdEEscEnd s
    (answer .pending (setMode .normal (append (Marker.literal s.cfg .escEnd) s)))

/-- `FD.E.ESC_ESC` (R74): `MemWrite(len, 1, ESC); len <- len + 1; mode <- Normal; result <- Pending`. -/
def execFdEEscEsc (s : State) : Host.Outcome State Fault Refusal :=
  whenSelected .fdEEscEsc s
    (answer .pending (setMode .normal (append (Marker.literal s.cfg .escEsc) s)))

/-- `FD.E.OVF` (R78): `raise Overflow`. -/
def execFdEOvf (marker : Marker) (s : State) : Host.Outcome State Fault Refusal :=
  whenSelected (.fdEOvf marker) s (raiseError .overflow s)

/-- `FD.E.INVALID` (R75): `raise InvalidEscape`. -/
def execFdEInvalid (b : Byte) (s : State) : Host.Outcome State Fault Refusal :=
  whenSelected (.fdEInvalid b) s (raiseError .invalidEscape s)

end Sys2Proof.Machine
end

