-- ==== Sys2Proof/Machine/InputTranslator.lean ====
section
/-! DEFINITION. The operations of the input translator `IT`, the first half of a `SAMPLE`
(`41_input_debouncer.md`), and the reserved event kinds (`30_encoding.md` R62). -/

namespace Sys2Proof.Machine

/-- `IT.NONE` (R86): `msg = Normal(key)`; `key` unchanged. -/
def execItNone (s : State) : Host.Outcome State Fault Refusal := .next (reportKey s.key s)

/-- `IT.PRESS` (R87): `k = key | (1 << c); key <- k; msg = Normal(k)`. -/
def execItPress (c : Control) (s : State) : Host.Outcome State Fault Refusal :=
  .next (reportKey (pressKey c s.key) s)

/-- `IT.RELEASE` (R88): `k = key & ~(1 << c); key <- k; msg = Normal(k)`. -/
def execItRelease (c : Control) (s : State) : Host.Outcome State Fault Refusal :=
  .next (reportKey (releaseKey c s.key) s)

/-- `IT.HAT` (R89): `k = (key & ~DIR_REGION) | hatbits; key <- k; msg = Normal(k)`. -/
def execItHat (l u d r : Bool) (s : State) : Host.Outcome State Fault Refusal :=
  .next (reportKey (hatKey l u d r s.key) s)

/-- `IT.SPECIAL.QUIT` (R90): `msg = Special(Quit)`; `key` unchanged. -/
def execItSpecialQuit (s : State) : Host.Outcome State Fault Refusal :=
  .next (reportSpecial .quit s)

/-- `IT.SPECIAL.RESETDISPLAY` (R91): `msg = Special(ResetDisplay)`; `key` unchanged. -/
def execItSpecialResetdisplay (s : State) : Host.Outcome State Fault Refusal :=
  .next (reportSpecial .resetDisplay s)

/-- `IT.HOTPLUG` (R92): `msg = Normal(key)`; `key` unchanged. -/
def execItHotplug (s : State) : Host.Outcome State Fault Refusal := .next (reportKey s.key s)

/-- `EV.RESERVED` (R62): "A model refuses a `SAMPLE` with a reserved kind". -/
def execEvReserved (_kind7 : Bool) (_s : State) : Host.Outcome State Fault Refusal :=
  .refused .reservedEventKind

end Sys2Proof.Machine
end

