-- ==== Sys2Proof/Machine/Reset.lean ====
section
/-! DEFINITION. The operation `RESET` (`70_reset_and_hazards.md` R130, R131). -/

namespace Sys2Proof.Machine

/-- `RESET` (R130), in every state (R131). -/
def execReset (s : State) : Host.Outcome State Fault Refusal := .next (resetBlock s)

end Sys2Proof.Machine
end

