-- ==== Sys2Proof/Machine/Dispatch.lean ====
section
/-! DEFINITION. One arm per operation: `exec` runs one operation of R64 in a state. -/

namespace Sys2Proof.Machine

def exec (i : Instr) (s : State) : Host.Outcome State Fault Refusal :=
  match i with
  | .fdDropEnd => Sys2Proof.Machine.execFdDropEnd s
  | .fdDropSkip b => Sys2Proof.Machine.execFdDropSkip b s
  | .fdNEndFrame => Sys2Proof.Machine.execFdNEndFrame s
  | .fdNEndEmpty => Sys2Proof.Machine.execFdNEndEmpty s
  | .fdNEsc => Sys2Proof.Machine.execFdNEsc s
  | .fdNData b => Sys2Proof.Machine.execFdNData b s
  | .fdNDataOvf b => Sys2Proof.Machine.execFdNDataOvf b s
  | .fdEEscEnd => Sys2Proof.Machine.execFdEEscEnd s
  | .fdEEscEsc => Sys2Proof.Machine.execFdEEscEsc s
  | .fdEOvf marker => Sys2Proof.Machine.execFdEOvf marker s
  | .fdEInvalid b => Sys2Proof.Machine.execFdEInvalid b s
  | .itNone => Sys2Proof.Machine.execItNone s
  | .itPress c => Sys2Proof.Machine.execItPress c s
  | .itRelease c => Sys2Proof.Machine.execItRelease c s
  | .itHat l u d r => Sys2Proof.Machine.execItHat l u d r s
  | .itSpecialQuit => Sys2Proof.Machine.execItSpecialQuit s
  | .itSpecialResetdisplay => Sys2Proof.Machine.execItSpecialResetdisplay s
  | .itHotplug => Sys2Proof.Machine.execItHotplug s
  | .evReserved kind7 => Sys2Proof.Machine.execEvReserved kind7 s
  | .edSame msg => Sys2Proof.Machine.execEdSame msg s
  | .edTxinput m => Sys2Proof.Machine.execEdTxinput m s
  | .edTxreset => Sys2Proof.Machine.execEdTxreset s
  | .edQuit => Sys2Proof.Machine.execEdQuit s
  | .reset => Sys2Proof.Machine.execReset s

end Sys2Proof.Machine
end

