-- ==== Sys2Proof/Machine/Sequence.lean ====
section
/-! DEFINITION. How a symbol becomes operations: a `FEED` is the one `FD` operation it selects (R67), a
`SAMPLE` an `IT` operation and then an `ED` operation (R108), and a step whatever its ports present
(`30_encoding.md` R45). -/

namespace Sys2Proof.Machine

/-- Run `f` on the next state, stop where `o` stops. -/
def andThen (o : Host.Outcome State Fault Refusal)
    (f : State → Host.Outcome State Fault Refusal) : Host.Outcome State Fault Refusal :=
  match o with
  | .next s => f s
  | .fault r => .fault r
  | .refused r => .refused r

/-- `FEED(b)` (R46, R67). -/
def runFeed (b : Byte) (s : State) : Host.Outcome State Fault Refusal :=
  exec (decodeFeed s.cfg s.context b) s

/-- The `ED` half: the operation the message of this `SAMPLE` selects against the old `last` (R108). -/
def runEdge (s : State) : Host.Outcome State Fault Refusal :=
  match s.out.msg with
  | some msg => exec (decodeMessage s.last msg) s
  | none => .next s

/-- `SAMPLE(ev)` (R108). -/
def runSample (ev : EventWord) (s : State) : Host.Outcome State Fault Refusal :=
  andThen (exec (decodeEvent ev) s) runEdge

/-- The `FEED` of a step, if it has one. -/
def runFeedPort (p : PortInput) (s : State) : Host.Outcome State Fault Refusal :=
  if p.feedValid then runFeed p.feedByte s else .next s

/-- The `SAMPLE` of a step, if it has one. -/
def runSamplePort (p : PortInput) (s : State) : Host.Outcome State Fault Refusal :=
  if p.sampleValid then runSample p.ev s else .next s

/-- The operations of a step: `RESET` alone, or the `FEED` and the `SAMPLE` presented (R45, R122). Their
order does not matter (R7); the model runs the `FEED` first (log 11). -/
def runPorts (p : PortInput) (s : State) : Host.Outcome State Fault Refusal :=
  if p.rst then exec .reset s
  else andThen (runFeedPort p s) (runSamplePort p)

/-- One step with the ports `p` (R45): outputs empty, operations, then the frame read port. -/
def stepWith (p : PortInput) (s : State) : Host.Outcome State Fault Refusal :=
  andThen (runPorts p (clearOutputs s)) (fun t => .next (readPort p.frameIdx t))

/-- One step of an instance that meets R5's constraints; another instance is refused (R128, U5). -/
def stepPresented (s : State) : Host.Outcome State Fault Refusal :=
  if s.cfg.WellFormed then stepWith (presented s) (consume s)
  else .refused .illFormedInstance

end Sys2Proof.Machine
end

