-- ==== Sys2Proof/Machine/Step.lean ====
section
/-! DEFINITION. One step of the block: the ports the environment presents next (`00_scope.md` R6). -/

namespace Sys2Proof.Machine

/-- One step. -/
def step (s : State) : Host.Outcome State Fault Refusal := stepPresented s

/-- `s` with the symbol of a table word as the next one presented (log 10, log 19). -/
def State.withFetchWord (s : State) (nbits w : Nat) : State := present (portsOfTableWord nbits w) s

end Sys2Proof.Machine
end

