-- ==== Sys2Proof/Safety.lean ====
section
/-! DEFINITION. What a state must keep, what an operation may leave unchanged, and runs: the words the
statements about the machine are written in. -/

namespace Sys2Proof.Machine

/-! ## The invariant -/

/-- What holds after `RESET` and is kept by every step: R14, R30, R36. -/
structure Inv (s : State) : Prop where
  /-- the parameters meet R5 -/
  config : s.cfg.WellFormed
  /-- R14 (a): `len <= C` -/
  len_le : s.len ≤ s.cfg.capacity
  /-- R14 (b): `drop = 1` implies `mode = Normal` and `len = 0` -/
  dropping : s.drop = true → s.mode = .normal ∧ s.len = 0
  /-- R14 (c): `mode = Escaped` implies `drop = 0` -/
  escaping : s.mode = .escaped → s.drop = false
  /-- the buffer is in its canonical form -/
  buf_wf : s.buf.wf = true
  /-- R30: every cell has an index below `C` -/
  buf_bound : ∀ c ∈ s.buf, c.1 < s.cfg.capacity
  /-- the first `len` bytes have been written -/
  partial_written : ∀ i < s.len, (s.buf.stored i).isSome = true
  /-- R36: an open window shows a whole frame, between frames -/
  window_whole : ∀ n, s.window = some n →
    1 ≤ n ∧ n ≤ s.cfg.capacity ∧ s.len = 0 ∧ s.drop = false ∧ s.mode = .normal ∧
      ∀ i < n, (s.buf.stored i).isSome = true

/-! ## Frames: what an operation leaves unchanged -/

/-- No byte is stored to `buf`: every cell's stored byte is as before, and so is what it reads as. -/
def SameBuffer (s t : State) : Prop := ∀ a, t.buf.stored a = s.buf.stored a

/-- No byte is stored to `buf` outside index `i`. -/
def SameBufferExcept (i : Nat) (s t : State) : Prop := ∀ a, a ≠ i → t.buf.stored a = s.buf.stored a

/-- `IT` and `ED` are as before (R7). -/
def SameInputSide (s t : State) : Prop := t.key = s.key ∧ t.last = s.last

/-- `FD` is as before, and so is every read through its port (R7, R36). -/
def SameDecoder (s t : State) : Prop :=
  t.mode = s.mode ∧ t.drop = s.drop ∧ t.len = s.len ∧ t.window = s.window ∧ t.draw = s.draw ∧
    SameBuffer s t

/-- The instance and what the environment has still to present are as before. -/
def SameSurroundings (s t : State) : Prop := t.cfg = s.cfg ∧ t.inputs = s.inputs

/-- What a `FEED` leaves unchanged whatever it does: `IT`, `ED`, and every output but `res`; the free
values of the unspecified cells are drawn anew (log 5). -/
def FeedFrame (s t : State) : Prop :=
  SameInputSide s t ∧ SameSurroundings s t ∧ t.draw = s.draw + 1 ∧
    t.out.msg = s.out.msg ∧ t.out.act = s.out.act ∧ t.out.frameByte = s.out.frameByte

/-- What the first half of a `SAMPLE` leaves unchanged: all but `key` and `msg`. -/
def TranslateFrame (s t : State) : Prop :=
  SameDecoder s t ∧ SameSurroundings s t ∧ t.last = s.last ∧
    t.out.res = s.out.res ∧ t.out.act = s.out.act ∧ t.out.frameByte = s.out.frameByte

/-- What the second half of a `SAMPLE` leaves unchanged: all but `last` and `act`. -/
def EdgeFrame (s t : State) : Prop :=
  SameDecoder s t ∧ SameSurroundings s t ∧ t.key = s.key ∧
    t.out.res = s.out.res ∧ t.out.msg = s.out.msg ∧ t.out.frameByte = s.out.frameByte

/-! ## Legal symbols (R62, R128) -/

/-- The event kind is one of the six legal ones. -/
def legalEvent (ev : EventWord) : Bool :=
  match decodeEvent ev with
  | .evReserved _ => false
  | _ => true

/-- The ports present nothing a model must refuse. -/
def legalPorts (p : PortInput) : Bool := p.rst || !p.sampleValid || legalEvent p.ev

/-! ## Runs (R143): the symbols presented and the outputs observed -/

/-- Present the symbols in order, one step each, and collect the outputs; none if a step refuses. -/
def runSymbols : List PortInput → State → Option (List PortOutput × State)
  | [], s => some ([], s)
  | p :: ps, s =>
    match step (present p s) with
    | .next t =>
      match runSymbols ps t with
      | some (os, u) => some (t.out :: os, u)
      | none => none
    | .fault _ => none
    | .refused _ => none

/-- The ports of `FEED(b)` alone. -/
def feedPorts (b : Byte) : PortInput := portsOf (.feed8 b)

/-- The ports of `SAMPLE(ev)` alone. -/
def samplePorts (ev : EventWord) : PortInput := portsOf (.ev11 ev)

/-- The same step without its `SAMPLE`. -/
def PortInput.feedOnly (p : PortInput) : PortInput := { p with sampleValid := false }

/-- The same step without its `FEED` and without a look at the frame read port. -/
def PortInput.sampleOnly (p : PortInput) : PortInput := { p with feedValid := false, frameIdx := none }

/-- What the events of a run make of one control (R12): a `PRESS` of it sets it, a `RELEASE` clears it, a
`HAT` replaces it if it is a direction, anything else leaves it. -/
def heldAfter (c : Control) : List EventWord → Bool → Bool
  | [], held => held
  | ev :: evs, held =>
    heldAfter c evs
      (match decodeEvent ev with
        | .itPress d => if d = c then true else held
        | .itRelease d => if d = c then false else held
        | .itHat l u d r =>
          match c with
          | .left => l
          | .up => u
          | .down => d
          | .right => r
          | _ => held
        | _ => held)

end Sys2Proof.Machine
end

