-- ==== Sys2Proof/Certificates/Slice0/Obligations.lean ====
section
/-! DEFINITION. The statements about the model, for the provers. Rules are those of `spec/`; "log n" is
`notes/assumptions/n.md`. -/

open Sys2Proof Sys2Proof.Machine

/-! ## Symbols and the operations they select -/

/-- Decoding the word of an operation gives that operation back, with every operand, in every context
where R64 selects it. The state conditions are those of R64, the words those of `opcode_table.json`. In
contexts with `len > C`, which no run reaches, the overflow rows are read as log 15 (DEDUCED) reads them. -/
def Obligations.DecodeOfEncodeIsTheOperation : Prop :=
  ∀ (cfg : Config) (c : Context) (i : Instr), cfg.WellFormed →
    i.wellFormed cfg = true → i.stateCondition cfg c = true →
    decode cfg c (encode cfg i) = .ok i

/-- What a word decodes to is an operation R64 selects, and the word is that operation's word up to the
argument bits its event kind ignores (R55, R62, R64). For `len > C` the overflow rows are read as log 15
(DEDUCED) reads them. -/
def Obligations.DecodedOperationIsSelectedAndEncodesBack : Prop :=
  ∀ (cfg : Config) (c : Context) (w : SymbolWord) (i : Instr), decode cfg c w = .ok i →
    i.wellFormed cfg = true ∧ i.stateCondition cfg c = true ∧ encode cfg i = w.significant i

/-- For every context and byte exactly one `FD` row applies, and for every `last` and message exactly one
`ED` row. The spec derives this itself (R64), the `FD` part for the states that meet R14. The wider range of
contexts is the model's: where `drop = 1` the rest of the state is not consulted (R67), and where `len > C`
the overflow rows, whose condition R64 writes `len = C`, are read as log 15 (DEDUCED) reads them. -/
def Obligations.RowsPartitionStatesAndSymbols : Prop :=
  ∀ (cfg : Config), cfg.WellFormed →
    (∀ (c : Context) (b : Byte),
      ∃ i, (encode cfg i = .feed8 b ∧ i.selectedIn cfg c = true) ∧
        ∀ j, encode cfg j = .feed8 b → j.selectedIn cfg c = true → j = i) ∧
    (∀ (c : Context) (msg : Message),
      ∃ i, (encode cfg i = .msg9 msg.encode ∧ i.selectedIn cfg c = true) ∧
        ∀ j, encode cfg j = .msg9 msg.encode → j.selectedIn cfg c = true → j = i)

/-- Words written out from R55 and from the vectors V34, V39, V43, V45, V46, V10, V16 of
`95_test_vectors.md` decode to the operations they stand for; the byte values are R5's defaults (log 2). -/
def Obligations.WrittenOutWordsDecode : Prop :=
  decodeEvent 0b00100000111 = .itPress .left ∧
  decodeEvent 0b01100001010 = .itHat true false true false ∧
  decodeEvent 0b10000000001 = .itSpecialResetdisplay ∧
  decodeEvent 0b11111111111 = .evReserved true ∧
  decodeEvent 0b00111111110 = .itPress .up ∧
  decodeFeed Config.standard ⟨false, .normal, 0, .normal 0⟩ 0x00 = .fdNData 0x00 ∧
  decodeFeed Config.standard ⟨false, .escaped, 0, .normal 0⟩ 0b11011100 = .fdEEscEnd

/-- R55, R62: argument bits an event kind does not use make no difference (the spec's decision D19). -/
def Obligations.IgnoredEventBitsMakeNoDifference : Prop :=
  ∀ ev ev' : EventWord,
    ev' &&& (decodeEvent ev).eventBits = ev &&& (decodeEvent ev).eventBits →
    decodeEvent ev' = decodeEvent ev

/-- R56: the 9-bit encoding tells every two messages apart, and is read back (the spec's decision D13). -/
def Obligations.MessageEncodingIsInjective : Prop :=
  ∀ a b : Message, (a.encode = b.encode ↔ a = b) ∧ Message.ofWord a.encode = some a

/-- R63, D6: the escaped bytes of any sequence hold no terminator, so `slip_encode(S)` ends at its only
`END`. -/
def Obligations.EscapedBytesHoldNoTerminator : Prop :=
  ∀ (cfg : Config) (S : List Byte), cfg.WellFormed → cfg.endByte ∉ slipBody cfg S

/-- R60: the mask of a control is 1 shifted by its bit index, bit 7 Left down to bit 0 Edit. -/
def Obligations.ControlMasksFollowTheBitIndices : Prop :=
  (∀ c : Control, controlMask c = (1 : Byte) <<< c.index.toNat) ∧
  Control.left.index = 7 ∧ Control.up.index = 6 ∧ Control.down.index = 5 ∧
  Control.select.index = 4 ∧ Control.start.index = 3 ∧ Control.right.index = 2 ∧
  Control.option.index = 1 ∧ Control.edit.index = 0 ∧
  controlMask .left = 0x80 ∧ controlMask .up = 0x40 ∧ controlMask .down = 0x20 ∧
  controlMask .select = 0x10 ∧ controlMask .start = 0x08 ∧ controlMask .right = 0x04 ∧
  controlMask .option = 0x02 ∧ controlMask .edit = 0x01

/-- R5, R15, D7: `LEN_W` is the least number of bits that holds the value `C`. -/
def Obligations.LengthWidthIsTheLeastThatHoldsC : Prop :=
  ∀ cfg : Config, cfg.capacity < 2 ^ cfg.lenWidth ∧
    ∀ k, cfg.capacity < 2 ^ k → cfg.lenWidth ≤ k

/-! ## The operations of `FD`: completion, result and frame

What they do to the frame window, a field of the model's own, is said below
(`FeedAndResetAloneMoveTheFrameWindow`). The frames of these and the later statements also keep the other
fields that are the model's own: `cfg` (log 1), `inputs` (log 10) and the outputs of other units (log 13).
They say of `draw`, the model's own too, that a `FEED` advances it and a `SAMPLE` does not (log 5). -/

/-- R68: in a drop window every byte but `END` is discarded; no state changes. D4 is the spec's choice of
the result `Pending`. -/
def Obligations.DropSkipDiscardsTheByte : Prop :=
  ∀ (s : State) (b : Byte), s.drop = true → b ≠ s.cfg.endByte →
    ∃ t, exec (.fdDropSkip b) s = .next t ∧ t.out.res = some .pending ∧
      t.mode = s.mode ∧ t.drop = true ∧ t.len = s.len ∧
      SameBuffer s t ∧ FeedFrame s t

/-- R69: the terminator closes the drop window, without a frame (the spec's decisions D3, D4). -/
def Obligations.DropEndClosesTheDropWindow : Prop :=
  ∀ s : State, s.drop = true →
    ∃ t, exec .fdDropEnd s = .next t ∧ t.out.res = some .pending ∧
      t.mode = s.mode ∧ t.drop = false ∧ t.len = s.len ∧
      SameBuffer s t ∧ FeedFrame s t

/-- R70: `END` with `len > 0` reports the frame `[buf[0], ..., buf[n-1]]` with `n = len`; `len` returns
to 0 and nothing else of `FD` changes. The port shows the frame's bytes, the contents `buf[i]` had. -/
def Obligations.EndFrameReportsTheFrame : Prop :=
  ∀ s : State, s.drop = false → s.mode = .normal → 0 < s.len →
    ∃ t, exec .fdNEndFrame s = .next t ∧ t.out.res = some (.frameReady s.len) ∧
      (∀ i, i < s.len → frameByteAt t i = .byte (bufAt s i)) ∧
      (∀ i b, i < s.len → s.buf.stored i = some b → frameByteAt t i = .byte b) ∧
      windowFrame t = some (partialFrame s) ∧
      t.mode = .normal ∧ t.drop = false ∧ t.len = 0 ∧
      SameBuffer s t ∧ FeedFrame s t

/-- R76: `END` with `len = 0` gives `Pending` and changes no state. -/
def Obligations.EndEmptyReportsNoFrame : Prop :=
  ∀ s : State, s.drop = false → s.mode = .normal → s.len = 0 →
    ∃ t, exec .fdNEndEmpty s = .next t ∧ t.out.res = some .pending ∧
      t.mode = .normal ∧ t.drop = false ∧ t.len = 0 ∧
      SameBuffer s t ∧ FeedFrame s t

/-- R77: `ESC` makes `mode` `Escaped`, whatever `len` is. -/
def Obligations.EscEntersEscapedMode : Prop :=
  ∀ s : State, s.drop = false → s.mode = .normal →
    ∃ t, exec .fdNEsc s = .next t ∧ t.out.res = some .pending ∧
      t.mode = .escaped ∧ t.drop = false ∧ t.len = s.len ∧
      SameBuffer s t ∧ FeedFrame s t

/-- R71: a data byte is stored at index `len`, and `len` advances by 1. -/
def Obligations.DataByteIsAppended : Prop :=
  ∀ (s : State) (b : Byte), s.drop = false → s.mode = .normal → s.len < s.cfg.capacity →
    b ≠ s.cfg.endByte → b ≠ s.cfg.escByte →
    ∃ t, exec (.fdNData b) s = .next t ∧ t.out.res = some .pending ∧
      t.buf.stored s.len = some b ∧ SameBufferExcept s.len s t ∧
      t.mode = .normal ∧ t.drop = false ∧ t.len = s.len + 1 ∧ FeedFrame s t

/-- R72 with R114: a data byte that does not fit raises Overflow: `len <- 0; mode <- Normal; drop <- 1`,
and no byte is written. -/
def Obligations.DataByteThatDoesNotFitOverflows : Prop :=
  ∀ (s : State) (b : Byte), s.drop = false → s.mode = .normal → s.len = s.cfg.capacity →
    b ≠ s.cfg.endByte → b ≠ s.cfg.escByte →
    ∃ t, exec (.fdNDataOvf b) s = .next t ∧ t.out.res = some (.error .overflow) ∧
      t.mode = .normal ∧ t.drop = true ∧ t.len = 0 ∧
      SameBuffer s t ∧ FeedFrame s t

/-- R73: after `ESC`, `ESC_END` stores the value `END` and returns to `Normal`. -/
def Obligations.EscapedEndStoresEnd : Prop :=
  ∀ s : State, s.drop = false → s.mode = .escaped → s.len < s.cfg.capacity →
    ∃ t, exec .fdEEscEnd s = .next t ∧ t.out.res = some .pending ∧
      t.buf.stored s.len = some s.cfg.endByte ∧ SameBufferExcept s.len s t ∧
      t.mode = .normal ∧ t.drop = false ∧ t.len = s.len + 1 ∧ FeedFrame s t

/-- R74: after `ESC`, `ESC_ESC` stores the value `ESC` and returns to `Normal`. -/
def Obligations.EscapedEscStoresEsc : Prop :=
  ∀ s : State, s.drop = false → s.mode = .escaped → s.len < s.cfg.capacity →
    ∃ t, exec .fdEEscEsc s = .next t ∧ t.out.res = some .pending ∧
      t.buf.stored s.len = some s.cfg.escByte ∧ SameBufferExcept s.len s t ∧
      t.mode = .normal ∧ t.drop = false ∧ t.len = s.len + 1 ∧ FeedFrame s t

/-- R78 with R114: an escaped literal that does not fit raises Overflow, for both markers (the spec's
decision D5). -/
def Obligations.EscapedLiteralThatDoesNotFitOverflows : Prop :=
  ∀ (s : State) (marker : Marker), s.drop = false → s.mode = .escaped → s.len = s.cfg.capacity →
    ∃ t, exec (.fdEOvf marker) s = .next t ∧ t.out.res = some (.error .overflow) ∧
      t.mode = .normal ∧ t.drop = true ∧ t.len = 0 ∧
      SameBuffer s t ∧ FeedFrame s t

/-- R75 with R115: any other byte after `ESC` raises InvalidEscape, whatever `len` is:
`len <- 0; mode <- Normal`, `drop` stays 0, and no byte is written. -/
def Obligations.OtherByteAfterEscIsInvalid : Prop :=
  ∀ (s : State) (b : Byte), s.drop = false → s.mode = .escaped →
    b ≠ s.cfg.escEnd → b ≠ s.cfg.escEsc →
    ∃ t, exec (.fdEInvalid b) s = .next t ∧ t.out.res = some (.error .invalidEscape) ∧
      t.mode = .normal ∧ t.drop = false ∧ t.len = 0 ∧
      SameBuffer s t ∧ FeedFrame s t

/-! ## The operations of `IT` -/

/-- R86, R92: `IT.NONE` and `IT.HOTPLUG` report the current mask and leave it (D11 is the spec's choice
for `HOTPLUG`). -/
def Obligations.NoneAndHotplugReportTheMask : Prop :=
  ∀ (s : State) (i : Instr), i = .itNone ∨ i = .itHotplug →
    ∃ t, exec i s = .next t ∧ t.key = s.key ∧ t.out.msg = some (.normal s.key) ∧ TranslateFrame s t

/-- R87: a `PRESS` sets its control's bit, keeps every other bit, and reports the new mask. -/
def Obligations.PressSetsItsBit : Prop :=
  ∀ (s : State) (c : Control),
    ∃ t, exec (.itPress c) s = .next t ∧
      t.key = s.key ||| (1 : Byte) <<< c.index.toNat ∧
      t.key.getLsbD c.index.toNat = true ∧
      (∀ i, i ≠ c.index.toNat → t.key.getLsbD i = s.key.getLsbD i) ∧
      t.out.msg = some (.normal t.key) ∧ TranslateFrame s t

/-- R88: a `RELEASE` clears its control's bit, keeps every other bit, and reports the new mask. -/
def Obligations.ReleaseClearsItsBit : Prop :=
  ∀ (s : State) (c : Control),
    ∃ t, exec (.itRelease c) s = .next t ∧
      t.key = s.key &&& ~~~((1 : Byte) <<< c.index.toNat) ∧
      t.key.getLsbD c.index.toNat = false ∧
      (∀ i, i ≠ c.index.toNat → t.key.getLsbD i = s.key.getLsbD i) ∧
      t.out.msg = some (.normal t.key) ∧ TranslateFrame s t

/-- R89, R61: a `HAT` replaces bits 7, 6, 5, 2, the region `0xE4`, by its four flags, keeps bits 4, 3, 1,
0, and reports the new mask; its bits are a subset of the region (the spec's decision D12). -/
def Obligations.HatReplacesTheDirectionBits : Prop :=
  ∀ (s : State) (l u d r : Bool),
    dirRegion = 0xE4 ∧ hatBits l u d r &&& ~~~dirRegion = 0 ∧
    ∃ t, exec (.itHat l u d r) s = .next t ∧
      t.key = (s.key &&& ~~~(0xE4 : Byte)) ||| hatBits l u d r ∧
      t.key.getLsbD 7 = l ∧ t.key.getLsbD 6 = u ∧ t.key.getLsbD 5 = d ∧ t.key.getLsbD 2 = r ∧
      t.key.getLsbD 4 = s.key.getLsbD 4 ∧ t.key.getLsbD 3 = s.key.getLsbD 3 ∧
      t.key.getLsbD 1 = s.key.getLsbD 1 ∧ t.key.getLsbD 0 = s.key.getLsbD 0 ∧
      t.out.msg = some (.normal t.key) ∧ TranslateFrame s t

/-- R90, R91: a `SPECIAL` event gives the `Special` message of its code and leaves `key`. -/
def Obligations.SpecialEventsGiveSpecialMessages : Prop :=
  ∀ s : State,
    (∃ t, exec .itSpecialQuit s = .next t ∧ t.key = s.key ∧
      t.out.msg = some (.special .quit) ∧ TranslateFrame s t) ∧
    (∃ t, exec .itSpecialResetdisplay s = .next t ∧ t.key = s.key ∧
      t.out.msg = some (.special .resetDisplay) ∧ TranslateFrame s t)

/-- R62: a reserved event kind is refused by name, in every state (the spec's decision D19). -/
def Obligations.ReservedKindsAreRefused : Prop :=
  ∀ (s : State) (kind7 : Bool), exec (.evReserved kind7) s = .refused .reservedEventKind

/-! ## The operations of `ED` -/

/-- R105: a message equal to `last` gives `NoAction` and leaves `last`, whichever kind it is. -/
def Obligations.SameMessageGivesNoAction : Prop :=
  ∀ (s : State) (msg : Message), msg = s.last →
    ∃ t, exec (.edSame msg) s = .next t ∧ t.out.act = some .noAction ∧ t.last = s.last ∧ EdgeFrame s t

/-- R102: a `Normal` message that differs from `last` is transmitted whole and remembered. -/
def Obligations.ChangedMaskIsTransmitted : Prop :=
  ∀ (s : State) (m : Byte), Message.normal m ≠ s.last →
    ∃ t, exec (.edTxinput m) s = .next t ∧ t.out.act = some (.txInput m) ∧
      Action.mask (.txInput m) = some m ∧
      Action.wire s.cfg (.txInput m) = [s.cfg.tagInput, m] ∧
      t.last = .normal m ∧ EdgeFrame s t

/-- R103: `Special(ResetDisplay)` that differs from `last` gives `TxResetDisplay` and is remembered. -/
def Obligations.DisplayResetIsTransmitted : Prop :=
  ∀ s : State, Message.special .resetDisplay ≠ s.last →
    ∃ t, exec .edTxreset s = .next t ∧ t.out.act = some .txResetDisplay ∧
      Action.wire s.cfg .txResetDisplay = [s.cfg.tagReset0, s.cfg.tagReset1] ∧
      t.last = .special .resetDisplay ∧ EdgeFrame s t

/-- R104: `Special(Quit)` that differs from `last` gives `QuitReq`, sends nothing, and is remembered. -/
def Obligations.QuitIsRequested : Prop :=
  ∀ s : State, Message.special .quit ≠ s.last →
    ∃ t, exec .edQuit s = .next t ∧ t.out.act = some .quitReq ∧
      Action.wire s.cfg .quitReq = [] ∧ t.last = .special .quit ∧ EdgeFrame s t

/-! ## `RESET`, and where operations run -/

/-- R130, R131, R133: from every state, `RESET` gives R22's values (the spec's decision D8), no output, a
closed frame window (log 12, log 13), and does not write `buf`, whose every cell then holds any value: the
free value of a new draw (log 5). -/
def Obligations.ResetGivesTheResetValues : Prop :=
  ∀ s : State, ∃ t, exec .reset s = .next t ∧
    t.mode = .normal ∧ t.drop = false ∧ t.len = 0 ∧ t.key = 0x00 ∧ t.last = .normal 0x00 ∧
    t.window = none ∧ t.out = {} ∧ (∀ i, frameByteAt t i = .refused .windowClosed) ∧
    (∀ i, bufAt t i = Config.freeByte t.draw i) ∧ t.draw = s.draw + 1 ∧
    SameBuffer s t ∧ SameSurroundings s t

/-- An operation completes exactly where R64 selects it; elsewhere `exec` refuses it by name, which is
the model's own choice (log 14). The reserved kinds never complete (R62). For `len > C` the overflow rows
are read as log 15 (DEDUCED) reads them. -/
def Obligations.OperationsCompleteExactlyWhereSelected : Prop :=
  ∀ (i : Instr) (s : State),
    ((∃ t, exec i s = .next t) ↔
      (i.selectedIn s.cfg s.context = true ∧ ∀ kind7, i ≠ .evReserved kind7)) ∧
    (i.selectedIn s.cfg s.context = false → exec i s = .refused .notSelected)

/-- R22: the values of the state right after reset, with every cell of `buf` holding a free value, none of
them stored by a `FEED` (log 5), and no window open (log 12), and the invariant holds there. The values are the spec's decision D8, the instance
is the model's (log 1, log 2). -/
def Obligations.ResetStateMeetsTheInvariant : Prop :=
  State.reset.mode = .normal ∧ State.reset.drop = false ∧ State.reset.len = 0 ∧
  State.reset.key = 0x00 ∧ State.reset.last = .normal 0x00 ∧ State.reset.window = none ∧
  (∀ i, bufAt State.reset i = Config.freeByte State.reset.draw i) ∧
  (∀ i, State.reset.buf.stored i = none) ∧ Inv State.reset

/-! ## Steps

A step takes the next of the symbols presented (`inputs`, log 10), empties the outputs of the step before
(log 13), runs the operations and then looks at the frame read port (log 11). These four are the model's
own. -/

/-- A step whose ports present one byte, and no event, runs the operation that byte decodes to, on the state
with the symbol consumed and the outputs emptied (log 10, log 13), and then looks at the frame read port if
the environment does (log 11), in every well-formed instance. -/
def Obligations.StepRunsTheDecodedFeed : Prop :=
  ∀ (s : State) (i : Instr), s.cfg.WellFormed → (presented s).rst = false →
    (presented s).feedValid = true → (presented s).sampleValid = false →
    decode s.cfg s.context (.feed8 (presented s).feedByte) = .ok i →
    step s = andThen (exec i (clearOutputs (consume s)))
      (fun t => .next (readPort (presented s).frameIdx t))

/-- A step whose ports present one event, and no byte, runs the `IT` operation the event decodes to and,
where that gives a next state, the `ED` operation its message decodes to against `last` (R108; log 10,
log 13, log 16), and then looks at the frame read port if the environment does (log 11). -/
def Obligations.StepRunsTheDecodedSample : Prop :=
  ∀ (s : State) (i : Instr), s.cfg.WellFormed → (presented s).rst = false →
    (presented s).feedValid = false → (presented s).sampleValid = true →
    decode s.cfg s.context (.ev11 (presented s).ev) = .ok i →
    (∀ t, exec i (clearOutputs (consume s)) = .next t →
      ∃ msg j, t.out.msg = some msg ∧
        decode t.cfg t.context (.msg9 msg.encode) = .ok j ∧
        step s = andThen (exec j t) (fun u => .next (readPort (presented s).frameIdx u))) ∧
    (∀ r, exec i (clearOutputs (consume s)) = .refused r → step s = .refused r)

/-- R45: with `rst = 1` the step is `RESET`, whatever the other ports present (the spec's decision D1;
log 10, log 13), followed by the look at the frame read port if the environment looks (log 11). -/
def Obligations.ResetPortHasPriority : Prop :=
  ∀ s : State, s.cfg.WellFormed → (presented s).rst = true →
    step s = andThen (exec .reset (clearOutputs (consume s)))
      (fun t => .next (readPort (presented s).frameIdx t))

/-- R45: a step with `rst`, `feed_valid` and `sample_valid` all 0 changes nothing; it consumes its symbol,
and if the environment looks at the frame read port it gets the port's answer. R35: in any step, a look at
the port gives `frame_byte` the port's answer and changes nothing else (log 10, log 11). -/
def Obligations.IdleStepChangesNothing : Prop :=
  (∀ s : State, s.cfg.WellFormed → (presented s).rst = false →
    (presented s).feedValid = false → (presented s).sampleValid = false →
    ∃ t, step s = .next t ∧ SameDecoder s t ∧ SameInputSide s t ∧ t.cfg = s.cfg ∧
      t.inputs = s.inputs.tail ∧ t.out.res = none ∧ t.out.msg = none ∧ t.out.act = none ∧
      t.out.frameByte = (presented s).frameIdx.map (frameByteAt s)) ∧
  ∀ (s : State) (p : PortInput) (i : Nat),
    step (present { p with frameIdx := some i } s) =
      andThen (step (present { p with frameIdx := none } s))
        (fun t => .next { t with out := { t.out with frameByte := some (frameByteAt t i) } })

/-- R45, R7: a step that presents a byte and an event runs both operations, in either order to the same
outcome (the spec's decisions D1, D20; log 11), and then looks at the frame read port if the environment
does. -/
def Obligations.FeedAndSampleOfOneStepCommute : Prop :=
  (∀ (s : State) (b : Byte) (ev : EventWord),
    andThen (runFeed b s) (runSample ev) = andThen (runSample ev s) (runFeed b)) ∧
  ∀ s : State, s.cfg.WellFormed → (presented s).rst = false → (presented s).feedValid = true →
    (presented s).sampleValid = true →
    step s = andThen
      (andThen (runSample (presented s).ev (clearOutputs (consume s))) (runFeed (presented s).feedByte))
      (fun t => .next (readPort (presented s).frameIdx t))

/-- R128: the step function is total: in every state of a well-formed instance, reachable or not, every
legal symbol gives a next state. The spec derives this itself, for reachable states. -/
def Obligations.StepAnswersEveryLegalSymbol : Prop :=
  ∀ s : State, s.cfg.WellFormed → legalPorts (presented s) = true → ∃ t, step s = .next t

/-- R62, R128: a step refuses a reserved event kind and an ill-formed instance, each by its name (the
spec's decision D19; log 17, log 18). -/
def Obligations.StepRefusesWhatTheSpecRefuses : Prop :=
  ∀ s : State,
    (s.cfg.WellFormed → legalPorts (presented s) = false → step s = .refused .reservedEventKind) ∧
    (¬ s.cfg.WellFormed → step s = .refused .illFormedInstance)

/-! ## Invariants and whole-machine rules -/

/-- R14, R18: every step keeps the invariant, changes no parameter, and consumes one symbol (log 10).
Clauses (b) and (c) of R14 are derived by the spec; the window's clause follows D15 (log 12). -/
def Obligations.StepKeepsTheInvariant : Prop :=
  ∀ s t : State, Inv s → step s = .next t → Inv t ∧ t.cfg = s.cfg ∧ t.inputs = s.inputs.tail

/-- R15, R31: `len` moves by 1 on an append and otherwise only returns to 0, and the only cell a step can
change is `buf[len]`, by such an append. -/
def Obligations.LengthAndBufferMoveTogether : Prop :=
  ∀ s t : State, step s = .next t →
    (t.len = s.len ∨ t.len = s.len + 1 ∨ t.len = 0) ∧
    (t.len = s.len + 1 → s.len < s.cfg.capacity ∧ t.out.res = some .pending ∧
      (t.buf.stored s.len).isSome = true) ∧
    (t.len ≠ s.len → t.len ≠ s.len + 1 →
      (presented s).rst = true ∨ t.out.res = some (.frameReady s.len) ∨
        ∃ kind, t.out.res = some (.error kind)) ∧
    (∀ a, t.buf.stored a ≠ s.buf.stored a → a = s.len ∧ t.len = s.len + 1)

/-- R66, R70, R36: a reported frame has 1 to `C` bytes, all of them readable in the window that opens. -/
def Obligations.ReportedFramesAreWhole : Prop :=
  ∀ (s t : State) (n : Nat), Inv s → step s = .next t → t.out.res = some (.frameReady n) →
    1 ≤ n ∧ n ≤ s.cfg.capacity ∧
      ∃ S : List Byte, S.length = n ∧ windowFrame t = some S ∧
        ∀ i b, S[i]? = some b → t.buf.stored i = some b ∧ frameByteAt t i = .byte b

/-- R36, R38: a step without `FEED` and `RESET` leaves every read of the frame as it was; a `RESET`, or a
`FEED` that does not report a frame, closes the window (the spec's decision D15). -/
def Obligations.FrameWindowLastsUntilFeedOrReset : Prop :=
  ∀ s t : State, step s = .next t →
    ((presented s).rst = false → (presented s).feedValid = false →
      t.window = s.window ∧ ∀ i, frameByteAt t i = frameByteAt s i) ∧
    (((presented s).rst = true ∨
        ((presented s).feedValid = true ∧ ∀ n, t.out.res ≠ some (.frameReady n))) →
      ∀ i, frameByteAt t i = .refused .windowClosed)

/-- R36: a completed frame opens the window on its `len` bytes, every other `FEED` operation and `RESET`
close it, and the operations of a `SAMPLE` leave it. The window is a field of the model's own (log 12)
that follows the spec's decision D15. -/
def Obligations.FeedAndResetAloneMoveTheFrameWindow : Prop :=
  ∀ (i : Instr) (s t : State), exec i s = .next t →
    (i = .fdNEndFrame → t.window = some s.len) ∧
    (∀ b, encode s.cfg i = .feed8 b → i ≠ .fdNEndFrame → t.window = none) ∧
    (i = .reset → t.window = none) ∧
    ((∃ w, encode s.cfg i = .ev11 w) ∨ (∃ w, encode s.cfg i = .msg9 w) → t.window = s.window)

/-- R36, R37: inside a window the port answers bytes; beyond the frame, and with no window, it refuses
the read (the spec's decisions D15, D24). -/
def Obligations.FramePortAnswersInsideTheWindowOnly : Prop :=
  ∀ (s : State) (i : Nat), Inv s →
    (s.window = none → frameByteAt s i = .refused .windowClosed) ∧
    ∀ n, s.window = some n →
      (i < n → ∃ b, s.buf.stored i = some b ∧ frameByteAt s i = .byte b) ∧ (n ≤ i → frameByteAt s i = .refused .beyondFrame)

/-- R65: every `FEED` terminates with exactly one result, for every state and every byte, and neither the
result nor the next `mode`, `drop` and `len` depend on anything but `mode`, `drop`, `len`, the byte and
the parameters. -/
def Obligations.FeedIsTotal : Prop :=
  ∀ (s : State) (b : Byte), ∃ t r, runFeed b s = .next t ∧ t.out.res = some r ∧
    ∀ s' : State, s'.cfg = s.cfg → s'.mode = s.mode → s'.drop = s.drop → s'.len = s.len →
      ∃ t', runFeed b s' = .next t' ∧ t'.out.res = some r ∧
        t'.mode = t.mode ∧ t'.drop = t.drop ∧ t'.len = t.len

/-- R11, R43: no `FEED` reads `buf`: with any other buffer contents the same byte gives the same result
and the same next state outside `buf`. -/
def Obligations.FeedNeverReadsTheBuffer : Prop :=
  ∀ (s t : State) (m : Buffer) (b : Byte), runFeed b s = .next t →
    ∃ t', runFeed b { s with buf := m } = .next t' ∧ t'.mode = t.mode ∧ t'.drop = t.drop ∧
      t'.len = t.len ∧ t'.window = t.window ∧ t'.out = t.out ∧ t'.key = t.key ∧ t'.last = t.last

/-! ## Errors and recovery -/

/-- R123: a `FEED` directly after one that raised an error gives `Pending`, whatever its byte is. -/
def Obligations.ErrorsDoNotNest : Prop :=
  ∀ (s t : State) (b b' : Byte) (kind : DecoderError), s.cfg.WellFormed →
    runFeed b s = .next t → t.out.res = some (.error kind) →
    ∃ u, runFeed b' t = .next u ∧ u.out.res = some .pending

/-- R68, R119: in a drop window any number of bytes other than `END` gives `Pending` each and leaves the
decoder where it is (the spec's decisions D3, D4). -/
def Obligations.DropWindowSwallowsAnyBytes : Prop :=
  ∀ (s : State) (bs : List Byte), s.cfg.WellFormed → s.drop = true → s.cfg.endByte ∉ bs →
    ∃ os t, runSymbols (bs.map feedPorts) s = some (os, t) ∧ (∀ o ∈ os, o.res = some .pending) ∧
      os.length = bs.length ∧ t.drop = true ∧ t.mode = s.mode ∧ t.len = s.len ∧ SameBuffer s t

/-- R120, R139: no drop window opens after an InvalidEscape; the bytes that follow, up to the next `END`,
are reported as a frame of their own. -/
def Obligations.TailAfterInvalidEscapeIsReported : Prop :=
  ∀ (s : State) (b : Byte) (S : List Byte), s.cfg.WellFormed → s.drop = false → s.mode = .escaped →
    b ≠ s.cfg.escEnd → b ≠ s.cfg.escEsc → 1 ≤ S.length → S.length ≤ s.cfg.capacity →
    ∃ os o e t, runSymbols ((b :: slipEncode s.cfg S).map feedPorts) s = some (e :: os ++ [o], t) ∧
      e.res = some (.error .invalidEscape) ∧ (∀ x ∈ os, x.res = some .pending) ∧
      o.res = some (.frameReady S.length) ∧ windowFrame t = some S

/-! ## Streams -/

/-- R80, framing round-trip: between frames, feeding `slip_encode(S)` with `1 <= |S| <= C` gives `Pending`
for every byte but the last and `FrameReady(S)` for the last, and ends between frames. -/
def Obligations.FramingRoundTrip : Prop :=
  ∀ (s : State) (S : List Byte), s.cfg.WellFormed → s.drop = false → s.mode = .normal → s.len = 0 →
    1 ≤ S.length → S.length ≤ s.cfg.capacity →
    ∃ os o t, runSymbols ((slipEncode s.cfg S).map feedPorts) s = some (os ++ [o], t) ∧
      (∀ x ∈ os, x.res = some .pending) ∧ o.res = some (.frameReady S.length) ∧
      windowFrame t = some S ∧ t.drop = false ∧ t.mode = .normal ∧ t.len = 0

/-- R80, overflow containment: between frames, feeding `slip_encode(S)` with `|S| > C` raises exactly one
Overflow, at the last byte of the escape form of stored byte `C + 1`; every other byte gives `Pending`,
no frame is reported, and the decoder ends as between frames (the spec's decisions D3, D4, D5). -/
def Obligations.OverflowContainment : Prop :=
  ∀ (s : State) (S : List Byte), s.cfg.WellFormed → s.drop = false → s.mode = .normal → s.len = 0 →
    s.cfg.capacity < S.length →
    ∃ os t, runSymbols ((slipEncode s.cfg S).map feedPorts) s = some (os, t) ∧
      os.length = (slipEncode s.cfg S).length ∧
      (∀ j o, os[j]? = some o →
        o.res = some (if j + 1 = (slipBody s.cfg (S.take (s.cfg.capacity + 1))).length
          then .error .overflow else .pending)) ∧
      t.drop = false ∧ t.mode = .normal ∧ t.len = 0 ∧ t.window = none

/-- R7: over any sequence of legal steps, the decoder and its results are those of the same steps without
their `SAMPLE`s, and the input side and its messages and actions those of the same steps without their
`FEED`s. A step left without either is idle and changes nothing (R45). -/
def Obligations.FeedsAndSamplesDoNotInterfere : Prop :=
  ∀ (ps : List PortInput) (s t : State) (os : List PortOutput), runSymbols ps s = some (os, t) →
    (∃ os' t', runSymbols (ps.map PortInput.feedOnly) s = some (os', t') ∧ SameDecoder t t' ∧
      os'.map PortOutput.res = os.map PortOutput.res ∧
      os'.map PortOutput.frameByte = os.map PortOutput.frameByte) ∧
    (∃ os' t', runSymbols (ps.map PortInput.sampleOnly) s = some (os', t') ∧ SameInputSide t t' ∧
      os'.map PortOutput.msg = os.map PortOutput.msg ∧ os'.map PortOutput.act = os.map PortOutput.act)

/-! ## Samples -/

/-- R85: every legal event gives exactly one message, `Normal(k)` with `k` the value of `key` after the
event unless the event is `SPECIAL`; the message compares nothing with an earlier one, so it is the same
from any state with the same `key`. -/
def Obligations.SampleReportsCurrentTruth : Prop :=
  ∀ (s : State) (ev : EventWord), legalEvent ev = true →
    ∃ t m, runSample ev s = .next t ∧ t.out.msg = some m ∧
      (decodeEvent ev ≠ .itSpecialQuit → decodeEvent ev ≠ .itSpecialResetdisplay →
        m = .normal t.key) ∧
      ∀ s' : State, s'.key = s.key →
        ∃ t', runSample ev s' = .next t' ∧ t'.out.msg = some m ∧ t'.key = t.key

/-- R95: one event gives one message and one kind of effect: a `SPECIAL` event gives a `Special` message
and never changes `key`; a `PRESS`, `RELEASE` or `HAT` never gives `Special`. -/
def Obligations.SpecialAndNormalExcludeEachOther : Prop :=
  ∀ (s t : State) (ev : EventWord), runSample ev s = .next t →
    ((decodeEvent ev = .itSpecialQuit ∨ decodeEvent ev = .itSpecialResetdisplay) →
      t.key = s.key ∧ ∃ code, t.out.msg = some (.special code)) ∧
    (((∃ c, decodeEvent ev = .itPress c) ∨ (∃ c, decodeEvent ev = .itRelease c) ∨
        (∃ l u d r, decodeEvent ev = .itHat l u d r)) →
      ∃ m, t.out.msg = some (.normal m))

/-- R101, R106: after every `SAMPLE`, `last` is its message, and the action is `NoAction` exactly when
the message equals the old `last` (the spec's decisions D13, D14). -/
def Obligations.LastIsTheMessageOfEverySample : Prop :=
  ∀ (s t : State) (ev : EventWord), runSample ev s = .next t →
    t.out.msg = some t.last ∧ (t.out.act = some .noAction ↔ t.last = s.last) ∧
    (∀ m, t.out.act = some (.txInput m) → t.last = .normal m)

/-- R107: while `last` is a `Special`, the next `Normal` message is transmitted whatever its mask is. -/
def Obligations.MaskIsRetransmittedAfterASpecial : Prop :=
  ∀ (s : State) (code : SpecialCode) (ev : EventWord), s.last = .special code →
    legalEvent ev = true →
    decodeEvent ev ≠ .itSpecialQuit → decodeEvent ev ≠ .itSpecialResetdisplay →
    ∃ t, runSample ev s = .next t ∧ t.out.act = some (.txInput t.key) ∧ t.last = .normal t.key

/-- R12: over any sequence of legal events, each bit of `key` is what the events make of its control. -/
def Obligations.KeyBitsFollowTheEvents : Prop :=
  ∀ (evs : List EventWord) (s : State) (c : Control), s.cfg.WellFormed →
    (∀ ev ∈ evs, legalEvent ev = true) →
    ∃ os t, runSymbols (evs.map samplePorts) s = some (os, t) ∧
      t.key.getLsbD c.index.toNat = heldAfter c evs (s.key.getLsbD c.index.toNat)

/-- R94: `PRESS` then `RELEASE` leaves the bit 0; operations of different controls commute; a `HAT`
overrides an earlier `HAT`, and commutes with the action controls but not with the direction controls.
The spec derives these laws itself. -/
def Obligations.TranslatorLaws : Prop :=
  (∀ (s t : State) (c : Control),
    andThen (exec (.itPress c) s) (exec (.itRelease c)) = .next t →
    t.key.getLsbD c.index.toNat = false) ∧
  (∀ (s : State) (c d : Control), c ≠ d →
    andThen (exec (.itPress c) s) (exec (.itRelease d)) =
      andThen (exec (.itRelease d) s) (exec (.itPress c)) ∧
    andThen (exec (.itPress c) s) (exec (.itPress d)) =
      andThen (exec (.itPress d) s) (exec (.itPress c)) ∧
    andThen (exec (.itRelease c) s) (exec (.itRelease d)) =
      andThen (exec (.itRelease d) s) (exec (.itRelease c))) ∧
  (∀ (s : State) (l u d r l' u' d' r' : Bool),
    andThen (exec (.itHat l u d r) s) (exec (.itHat l' u' d' r')) = exec (.itHat l' u' d' r') s) ∧
  (∀ (s : State) (c : Control) (l u d r : Bool),
    c = .select ∨ c = .start ∨ c = .option ∨ c = .edit →
    andThen (exec (.itHat l u d r) s) (exec (.itPress c)) =
      andThen (exec (.itPress c) s) (exec (.itHat l u d r)) ∧
    andThen (exec (.itHat l u d r) s) (exec (.itRelease c)) =
      andThen (exec (.itRelease c) s) (exec (.itHat l u d r))) ∧
  (∀ (s : State) (c : Control), c = .left ∨ c = .up ∨ c = .down ∨ c = .right →
    (∃ l u d r, andThen (exec (.itHat l u d r) s) (exec (.itPress c)) ≠
      andThen (exec (.itPress c) s) (exec (.itHat l u d r))) ∧
    (∃ l u d r, andThen (exec (.itHat l u d r) s) (exec (.itRelease c)) ≠
      andThen (exec (.itRelease c) s) (exec (.itHat l u d r))))
end

