-- ==== Sys2Proof/Laws/Buffer.lean ====
section
/-! SUPPORT. The frame buffer: a read after a write, the canonical form, the bytes of a frame. -/

namespace Sys2Proof.Machine

@[simp] theorem Buffer.stored_nil (i : Nat) : Buffer.stored [] i = none := rfl

theorem Buffer.stored_cons (j : Nat) (w : Byte) (m : Buffer) (i : Nat) :
    Buffer.stored ((j, w) :: m) i = if i = j then some w else Buffer.stored m i := rfl

/-- A write is read back. -/
@[simp] theorem Buffer.stored_write_same (m : Buffer) (i : Nat) (v : Byte) :
    (m.write i v).stored i = some v := by
  induction m with
  | nil => simp [Buffer.write, Buffer.stored_cons]
  | cons c m ih =>
    obtain ⟨j, w⟩ := c
    rcases Nat.lt_trichotomy i j with h | h | h
    · simp [Buffer.write, h, Buffer.stored_cons]
    · simp [Buffer.write, h, Buffer.stored_cons]
    · have h1 : ¬ i < j := by omega
      have h2 : i ≠ j := by omega
      simp [Buffer.write, h1, h2, Buffer.stored_cons, ih]

/-- A write leaves every other cell alone. -/
theorem Buffer.stored_write_other (m : Buffer) {i a : Nat} (v : Byte) (h : a ≠ i) :
    (m.write i v).stored a = m.stored a := by
  induction m with
  | nil => simp [Buffer.write, Buffer.stored_cons, h]
  | cons c m ih =>
    obtain ⟨j, w⟩ := c
    rcases Nat.lt_trichotomy i j with hj | hj | hj
    · simp [Buffer.write, hj, Buffer.stored_cons, h]
    · subst hj; simp [Buffer.write, Buffer.stored_cons, h]
    · have h1 : ¬ i < j := by omega
      have h2 : i ≠ j := by omega
      simp [Buffer.write, h1, h2, Buffer.stored_cons, ih]

/-- The cells of a written buffer are the one written and old ones. -/
theorem Buffer.mem_write {m : Buffer} {i : Nat} {v : Byte} {c : Host.Cell} (h : c ∈ m.write i v) :
    c = (i, v) ∨ c ∈ m := by
  induction m with
  | nil => simpa [Buffer.write] using h
  | cons d m ih =>
    obtain ⟨j, w⟩ := d
    rcases Nat.lt_trichotomy i j with hj | hj | hj
    · simp only [Buffer.write, hj, if_true] at h
      simpa using h
    · simp only [Buffer.write, hj, Nat.lt_irrefl, if_false, if_true] at h
      rcases List.mem_cons.1 h with h | h
      · exact .inl (by rw [h, hj])
      · exact .inr (List.mem_cons_of_mem _ h)
    · have h1 : ¬ i < j := by omega
      have h2 : i ≠ j := by omega
      simp only [Buffer.write, h1, h2, if_false] at h
      rcases List.mem_cons.1 h with h | h
      · exact .inr (by simp [h])
      · exact (ih h).imp id (List.mem_cons_of_mem _)

theorem Buffer.wf_cons (i : Nat) (w : Byte) (m : Buffer) :
    Buffer.wf ((i, w) :: m) = true ↔ (∀ c ∈ m, i < c.1) ∧ m.wf = true := by
  simp [Buffer.wf]

/-- A write keeps the canonical form. -/
theorem Buffer.wf_write (m : Buffer) (i : Nat) (v : Byte) (h : m.wf = true) :
    (m.write i v).wf = true := by
  induction m with
  | nil => rfl
  | cons d m ih =>
    obtain ⟨j, w⟩ := d
    obtain ⟨hlt, hm⟩ := (Buffer.wf_cons j w m).1 h
    rcases Nat.lt_trichotomy i j with hj | hj | hj
    · simp only [Buffer.write, hj, if_true]
      refine (Buffer.wf_cons ..).2 ⟨fun c hc => ?_, h⟩
      rcases List.mem_cons.1 hc with hc | hc
      · simpa [hc] using hj
      · exact Nat.lt_trans hj (hlt c hc)
    · simp only [Buffer.write, hj, Nat.lt_irrefl, if_false, if_true]
      exact (Buffer.wf_cons ..).2 ⟨hlt, hm⟩
    · have h1 : ¬ i < j := by omega
      have h2 : i ≠ j := by omega
      simp only [Buffer.write, h1, h2, if_false]
      refine (Buffer.wf_cons ..).2 ⟨fun c hc => ?_, ih hm⟩
      rcases Buffer.mem_write hc with hc | hc
      · simpa [hc] using hj
      · exact hlt c hc

/-- Cells written stay written. -/
theorem Buffer.isSome_write {m : Buffer} {a : Nat} (i : Nat) (v : Byte)
    (h : (m.stored a).isSome = true) : ((m.write i v).stored a).isSome = true := by
  by_cases ha : a = i
  · simp [ha]
  · rwa [Buffer.stored_write_other m v ha]

/-! ## What a cell reads as -/

theorem Buffer.read_of_stored {m : Buffer} {i : Nat} {b : Byte} (h : m.stored i = some b) :
    m.read i = b := by
  simp [Buffer.read, h]

theorem Buffer.read_of_not_stored {m : Buffer} {i : Nat} (h : m.stored i = none) :
    m.read i = Buffer.unlisted i := by
  simp [Buffer.read, h]

/-- A write is read back. -/
@[simp] theorem Buffer.read_write_same (m : Buffer) (i : Nat) (v : Byte) :
    (m.write i v).read i = v :=
  Buffer.read_of_stored (Buffer.stored_write_same m i v)

/-- A write leaves what every other cell reads as alone. -/
theorem Buffer.read_write_other (m : Buffer) {i a : Nat} (v : Byte) (h : a ≠ i) :
    (m.write i v).read a = m.read a := by
  simp only [Buffer.read, Buffer.stored_write_other m v h]

/-- What cells read as depends on what is stored in them. -/
theorem Buffer.read_congr {m m' : Buffer} {i : Nat} (h : m'.stored i = m.stored i) :
    m'.read i = m.read i := by
  simp only [Buffer.read, h]

/-! ## The bytes of a frame -/

@[simp] theorem Buffer.bytes_zero (m : Buffer) : m.bytes 0 = [] := rfl

@[simp] theorem Buffer.bytes_length (m : Buffer) (n : Nat) : (m.bytes n).length = n := by
  simp [Buffer.bytes]

theorem Buffer.bytes_succ (m : Buffer) (n : Nat) : m.bytes (n + 1) = m.bytes n ++ [m.read n] := by
  simp [Buffer.bytes, List.range_succ]

theorem Buffer.getElem?_bytes (m : Buffer) {n i : Nat} (h : i < n) :
    (m.bytes n)[i]? = some (m.read i) := by
  simp [Buffer.bytes, h]

/-- The bytes of a prefix depend only on its cells. -/
theorem Buffer.bytes_congr {m m' : Buffer} {n : Nat} (h : ∀ i < n, m'.read i = m.read i) :
    m'.bytes n = m.bytes n :=
  List.map_congr_left fun i hi => h i (List.mem_range.1 hi)

/-- Appending one byte at index `n` extends the first `n` bytes by it. -/
theorem Buffer.bytes_write (m : Buffer) (n : Nat) (v : Byte) :
    (m.write n v).bytes (n + 1) = m.bytes n ++ [v] := by
  rw [Buffer.bytes_succ, Buffer.read_write_same,
    Buffer.bytes_congr fun i hi => Buffer.read_write_other m v (Nat.ne_of_lt hi)]

/-- Cells stored to have bytes, each the one stored. -/
theorem Buffer.stored_of_bytes {m : Buffer} {n i : Nat} {b : Byte}
    (h : ∀ i < n, (m.stored i).isSome = true) (hb : (m.bytes n)[i]? = some b) :
    m.stored i = some b := by
  have hi : i < n := by
    have := (List.getElem?_eq_some_iff.1 hb).1
    simpa using this
  obtain ⟨v, hv⟩ := Option.isSome_iff_exists.1 (h i hi)
  rw [Buffer.getElem?_bytes m hi, Buffer.read_of_stored hv] at hb
  rw [hv, hb]

/-! ## The contents of `buf` -/

/-- A byte of the partial frame is promised. -/
theorem bufAt_partial {s : State} {i : Nat} (h : i < s.len) : bufAt s i = s.buf.read i := by
  simp [bufAt, promised, h]

/-- A byte of the frame an open window shows is promised. -/
theorem bufAt_window {s : State} {n i : Nat} (hw : s.window = some n) (h : i < n) :
    bufAt s i = s.buf.read i := by
  simp [bufAt, promised, hw, h]

/-- Every other cell holds the free value of the current draw. -/
theorem bufAt_free {s : State} {i : Nat} (hl : s.len ≤ i) (hw : s.window.getD 0 ≤ i) :
    bufAt s i = Config.freeByte s.draw i := by
  simp [bufAt, promised, Nat.not_lt.2 hl, Nat.not_lt.2 hw]

/-- `RESET` leaves every cell any value (R22). -/
@[simp] theorem bufAt_resetBlock (s : State) (i : Nat) :
    bufAt (resetBlock s) i = Config.freeByte (s.draw + 1) i :=
  bufAt_free (s := resetBlock s) (Nat.zero_le i) (Nat.zero_le i)

/-! ## The frame read port -/

@[simp] theorem frameByteAt_closed {s : State} (h : s.window = none) (i : Nat) :
    frameByteAt s i = .refused .windowClosed := by
  simp [frameByteAt, h]

theorem frameByteAt_inside {s : State} {n i : Nat} (h : s.window = some n) (hi : i < n) :
    frameByteAt s i = .byte (s.buf.read i) := by
  simp [frameByteAt, h, hi, bufAt_window h hi]

theorem frameByteAt_beyond {s : State} {n i : Nat} (h : s.window = some n) (hi : n ≤ i) :
    frameByteAt s i = .refused .beyondFrame := by
  simp [frameByteAt, h, Nat.not_lt.2 hi]

/-- What the port answers depends on the window and on what is stored in `buf`. -/
theorem frameByteAt_congr {s t : State} (hw : t.window = s.window)
    (hb : ∀ i, t.buf.stored i = s.buf.stored i) (i : Nat) : frameByteAt t i = frameByteAt s i := by
  rcases h : s.window with _ | n
  · rw [frameByteAt_closed h, frameByteAt_closed (hw.trans h)]
  · rcases Nat.lt_or_ge i n with hi | hi
    · rw [frameByteAt_inside h hi, frameByteAt_inside (hw.trans h) hi, Buffer.read_congr (hb i)]
    · rw [frameByteAt_beyond h hi, frameByteAt_beyond (hw.trans h) hi]

/-- The window opened by a completed frame shows the partial frame (R70). -/
@[simp] theorem windowFrame_completeFrame (s : State) :
    windowFrame (completeFrame s) = some (partialFrame s) := rfl

end Sys2Proof.Machine
end

