-- ==== Sys2Proof/Laws/Decode.lean ====
section
/-! SUPPORT. The small lemmas of decoding and encoding: fields, and that a classifier answers an
operation R64 selects. -/

namespace Sys2Proof

@[simp] theorem Control.ofIndex_index (c : Control) : Control.ofIndex c.index = c := by
  cases c <;> rfl

@[simp] theorem Control.index_ofIndex (i : BitVec 3) : (Control.ofIndex i).index = i := by
  revert i; decide

theorem Control.index_injective {c d : Control} (h : c.index = d.index) : c = d := by
  rw [← Control.ofIndex_index c, h, Control.ofIndex_index]

/-- The payload bits of a `Normal` message are its mask, and the tag bit is 0 (R56). -/
theorem Message.encode_normal_getLsbD (m : Byte) (i : Nat) :
    (Message.encode (.normal m)).getLsbD i = if i < 8 then m.getLsbD i else false := by
  have h := BitVec.getLsbD_append (x := (0 : BitVec 1)) (y := m) (i := i)
  refine Eq.trans h ?_
  split <;> simp

@[simp] theorem Message.ofWord_encode (msg : Message) : Message.ofWord msg.encode = some msg := by
  rcases msg with m | code
  · have h0 : (Message.encode (.normal m)).extractLsb' 0 8 = m := by
      refine BitVec.eq_of_getLsbD_eq fun i hi => ?_
      simp [BitVec.getLsbD_extractLsb', Message.encode_normal_getLsbD, hi, -BitVec.getLsbD_eq_getElem]
    have h8 : (Message.encode (.normal m)).getLsbD 8 = false := by
      rw [Message.encode_normal_getLsbD]; rfl
    simp only [Message.ofWord, h0, h8, Bool.false_eq_true, if_false]
  · cases code <;> decide

theorem Message.encode_injective {a b : Message} (h : a.encode = b.encode) : a = b := by
  have h2 := congrArg Message.ofWord h
  simpa using h2

/-- `decodeFeed` answers an operation that R64 selects, whatever the parameters. -/
theorem decodeFeed_selectedIn (cfg : Config) (c : Context) (b : Byte) :
    (decodeFeed cfg c b).selectedIn cfg c = true := by
  obtain ⟨drop, mode, len, last⟩ := c
  cases drop <;> cases mode <;>
    simp only [decodeFeed, decodeDropping, decodeNormal, decodeEscaped, if_true, if_false,
      Bool.false_eq_true] <;>
    repeat' split
  all_goals simp_all [Instr.selectedIn, Instr.wellFormed, Instr.stateCondition]

/-- `decodeFeed` answers an operation whose word is the byte. -/
theorem encode_decodeFeed (cfg : Config) (c : Context) (b : Byte) :
    encode cfg (decodeFeed cfg c b) = .feed8 b := by
  obtain ⟨drop, mode, len, last⟩ := c
  cases drop <;> cases mode <;>
    simp only [decodeFeed, decodeDropping, decodeNormal, decodeEscaped, if_true, if_false,
      Bool.false_eq_true] <;>
    repeat' split
  all_goals simp_all [encode, Marker.byte]

/-- `decodeMessage` answers an operation that R64 selects. -/
theorem decodeMessage_selectedIn (cfg : Config) (c : Context) (msg : Message) :
    (decodeMessage c.last msg).selectedIn cfg c = true := by
  unfold decodeMessage
  split
  · simp_all [Instr.selectedIn, Instr.wellFormed, Instr.stateCondition]
  · split <;> simp_all [Instr.selectedIn, Instr.wellFormed, Instr.stateCondition]

/-- `decodeMessage` answers an operation whose word is the message. -/
theorem encode_decodeMessage (cfg : Config) (last msg : Message) :
    encode cfg (decodeMessage last msg) = .msg9 msg.encode := by
  unfold decodeMessage
  split
  · rfl
  · split <;> rfl

/-- The argument of an event word built from its parts is its low byte (R55). -/
theorem eventWord_arg (k : BitVec 3) (a : Byte) {i : Nat} (hi : i < 8) :
    (eventWord k a).getLsbD i = a.getLsbD i := by
  have h := BitVec.getLsbD_append (x := k) (y := a) (i := i)
  exact Eq.trans h (by rw [if_pos hi])

/-- The kind of an event word built from its parts is its top three bits (R55). -/
@[simp] theorem eventWord_kind (k : BitVec 3) (a : Byte) : (eventWord k a).extractLsb' 8 3 = k := by
  refine BitVec.eq_of_getLsbD_eq fun i hi => ?_
  have h := BitVec.getLsbD_append (x := k) (y := a) (i := 8 + i)
  rw [BitVec.getLsbD_extractLsb']
  refine Eq.trans (congrArg _ h) ?_
  simp [hi, -BitVec.getLsbD_eq_getElem]

end Sys2Proof
end

