-- ==== Sys2Proof/Laws/State.lean ====
section
/-! SUPPORT. What each shared operation over the state does to each field: one lemma per field. -/

namespace Sys2Proof.Machine

variable (s : State)

/-! ## `answer` -/

@[simp] theorem answer_cfg (r : DecodeResult) : (answer r s).cfg = s.cfg := rfl
@[simp] theorem answer_mode (r : DecodeResult) : (answer r s).mode = s.mode := rfl
@[simp] theorem answer_drop (r : DecodeResult) : (answer r s).drop = s.drop := rfl
@[simp] theorem answer_len (r : DecodeResult) : (answer r s).len = s.len := rfl
@[simp] theorem answer_buf (r : DecodeResult) : (answer r s).buf = s.buf := rfl
@[simp] theorem answer_key (r : DecodeResult) : (answer r s).key = s.key := rfl
@[simp] theorem answer_last (r : DecodeResult) : (answer r s).last = s.last := rfl
@[simp] theorem answer_window (r : DecodeResult) : (answer r s).window = none := rfl
@[simp] theorem answer_draw (r : DecodeResult) : (answer r s).draw = s.draw + 1 := rfl
@[simp] theorem answer_inputs (r : DecodeResult) : (answer r s).inputs = s.inputs := rfl
@[simp] theorem answer_out_res (r : DecodeResult) : (answer r s).out.res = some r := rfl
@[simp] theorem answer_out_msg (r : DecodeResult) : (answer r s).out.msg = s.out.msg := rfl
@[simp] theorem answer_out_act (r : DecodeResult) : (answer r s).out.act = s.out.act := rfl
@[simp] theorem answer_out_frameByte (r : DecodeResult) : (answer r s).out.frameByte = s.out.frameByte := rfl

/-! ## `append` -/

@[simp] theorem append_cfg (v : Byte) : (append v s).cfg = s.cfg := rfl
@[simp] theorem append_mode (v : Byte) : (append v s).mode = s.mode := rfl
@[simp] theorem append_drop (v : Byte) : (append v s).drop = s.drop := rfl
@[simp] theorem append_len (v : Byte) : (append v s).len = s.len + 1 := rfl
@[simp] theorem append_buf (v : Byte) : (append v s).buf = s.buf.write s.len v := rfl
@[simp] theorem append_key (v : Byte) : (append v s).key = s.key := rfl
@[simp] theorem append_last (v : Byte) : (append v s).last = s.last := rfl
@[simp] theorem append_window (v : Byte) : (append v s).window = s.window := rfl
@[simp] theorem append_draw (v : Byte) : (append v s).draw = s.draw := rfl
@[simp] theorem append_inputs (v : Byte) : (append v s).inputs = s.inputs := rfl
@[simp] theorem append_out_res (v : Byte) : (append v s).out.res = s.out.res := rfl
@[simp] theorem append_out_msg (v : Byte) : (append v s).out.msg = s.out.msg := rfl
@[simp] theorem append_out_act (v : Byte) : (append v s).out.act = s.out.act := rfl
@[simp] theorem append_out_frameByte (v : Byte) : (append v s).out.frameByte = s.out.frameByte := rfl

/-! ## `setMode` -/

@[simp] theorem setMode_cfg (m : Mode) : (setMode m s).cfg = s.cfg := rfl
@[simp] theorem setMode_mode (m : Mode) : (setMode m s).mode = m := rfl
@[simp] theorem setMode_drop (m : Mode) : (setMode m s).drop = s.drop := rfl
@[simp] theorem setMode_len (m : Mode) : (setMode m s).len = s.len := rfl
@[simp] theorem setMode_buf (m : Mode) : (setMode m s).buf = s.buf := rfl
@[simp] theorem setMode_key (m : Mode) : (setMode m s).key = s.key := rfl
@[simp] theorem setMode_last (m : Mode) : (setMode m s).last = s.last := rfl
@[simp] theorem setMode_window (m : Mode) : (setMode m s).window = s.window := rfl
@[simp] theorem setMode_draw (m : Mode) : (setMode m s).draw = s.draw := rfl
@[simp] theorem setMode_inputs (m : Mode) : (setMode m s).inputs = s.inputs := rfl
@[simp] theorem setMode_out (m : Mode) : (setMode m s).out = s.out := rfl

/-! ## `completeFrame` -/

@[simp] theorem completeFrame_cfg : (completeFrame s).cfg = s.cfg := rfl
@[simp] theorem completeFrame_mode : (completeFrame s).mode = s.mode := rfl
@[simp] theorem completeFrame_drop : (completeFrame s).drop = s.drop := rfl
@[simp] theorem completeFrame_len : (completeFrame s).len = 0 := rfl
@[simp] theorem completeFrame_buf : (completeFrame s).buf = s.buf := rfl
@[simp] theorem completeFrame_key : (completeFrame s).key = s.key := rfl
@[simp] theorem completeFrame_last : (completeFrame s).last = s.last := rfl
@[simp] theorem completeFrame_window : (completeFrame s).window = some s.len := rfl
@[simp] theorem completeFrame_draw : (completeFrame s).draw = s.draw + 1 := rfl
@[simp] theorem completeFrame_inputs : (completeFrame s).inputs = s.inputs := rfl
@[simp] theorem completeFrame_out_res : (completeFrame s).out.res = some (.frameReady s.len) := rfl
@[simp] theorem completeFrame_out_msg : (completeFrame s).out.msg = s.out.msg := rfl
@[simp] theorem completeFrame_out_act : (completeFrame s).out.act = s.out.act := rfl
@[simp] theorem completeFrame_out_frameByte : (completeFrame s).out.frameByte = s.out.frameByte := rfl

/-! ## `raiseError` -/

@[simp] theorem raiseError_cfg (kind : DecoderError) : (raiseError kind s).cfg = s.cfg := rfl
@[simp] theorem raiseError_mode (kind : DecoderError) : (raiseError kind s).mode = .normal := rfl
@[simp] theorem raiseError_len (kind : DecoderError) : (raiseError kind s).len = 0 := rfl
@[simp] theorem raiseError_buf (kind : DecoderError) : (raiseError kind s).buf = s.buf := rfl
@[simp] theorem raiseError_key (kind : DecoderError) : (raiseError kind s).key = s.key := rfl
@[simp] theorem raiseError_last (kind : DecoderError) : (raiseError kind s).last = s.last := rfl
@[simp] theorem raiseError_window (kind : DecoderError) : (raiseError kind s).window = none := rfl
@[simp] theorem raiseError_draw (kind : DecoderError) : (raiseError kind s).draw = s.draw + 1 := rfl
@[simp] theorem raiseError_inputs (kind : DecoderError) : (raiseError kind s).inputs = s.inputs := rfl
@[simp] theorem raiseError_out_res (kind : DecoderError) : (raiseError kind s).out.res = some (.error kind) := rfl
@[simp] theorem raiseError_out_msg (kind : DecoderError) : (raiseError kind s).out.msg = s.out.msg := rfl
@[simp] theorem raiseError_out_act (kind : DecoderError) : (raiseError kind s).out.act = s.out.act := rfl
@[simp] theorem raiseError_out_frameByte (kind : DecoderError) : (raiseError kind s).out.frameByte = s.out.frameByte := rfl
@[simp] theorem raiseError_overflow_drop : (raiseError .overflow s).drop = true := rfl
@[simp] theorem raiseError_invalidEscape_drop : (raiseError .invalidEscape s).drop = s.drop := rfl

/-! ## `closeDropWindow` -/

@[simp] theorem closeDropWindow_cfg : (closeDropWindow s).cfg = s.cfg := rfl
@[simp] theorem closeDropWindow_mode : (closeDropWindow s).mode = s.mode := rfl
@[simp] theorem closeDropWindow_drop : (closeDropWindow s).drop = false := rfl
@[simp] theorem closeDropWindow_len : (closeDropWindow s).len = s.len := rfl
@[simp] theorem closeDropWindow_buf : (closeDropWindow s).buf = s.buf := rfl
@[simp] theorem closeDropWindow_key : (closeDropWindow s).key = s.key := rfl
@[simp] theorem closeDropWindow_last : (closeDropWindow s).last = s.last := rfl
@[simp] theorem closeDropWindow_window : (closeDropWindow s).window = s.window := rfl
@[simp] theorem closeDropWindow_draw : (closeDropWindow s).draw = s.draw := rfl
@[simp] theorem closeDropWindow_inputs : (closeDropWindow s).inputs = s.inputs := rfl
@[simp] theorem closeDropWindow_out_res : (closeDropWindow s).out.res = s.out.res := rfl
@[simp] theorem closeDropWindow_out_msg : (closeDropWindow s).out.msg = s.out.msg := rfl
@[simp] theorem closeDropWindow_out_act : (closeDropWindow s).out.act = s.out.act := rfl
@[simp] theorem closeDropWindow_out_frameByte : (closeDropWindow s).out.frameByte = s.out.frameByte := rfl

/-! ## `reportKey` -/

@[simp] theorem reportKey_cfg (k : Byte) : (reportKey k s).cfg = s.cfg := rfl
@[simp] theorem reportKey_mode (k : Byte) : (reportKey k s).mode = s.mode := rfl
@[simp] theorem reportKey_drop (k : Byte) : (reportKey k s).drop = s.drop := rfl
@[simp] theorem reportKey_len (k : Byte) : (reportKey k s).len = s.len := rfl
@[simp] theorem reportKey_buf (k : Byte) : (reportKey k s).buf = s.buf := rfl
@[simp] theorem reportKey_key (k : Byte) : (reportKey k s).key = k := rfl
@[simp] theorem reportKey_last (k : Byte) : (reportKey k s).last = s.last := rfl
@[simp] theorem reportKey_window (k : Byte) : (reportKey k s).window = s.window := rfl
@[simp] theorem reportKey_draw (k : Byte) : (reportKey k s).draw = s.draw := rfl
@[simp] theorem reportKey_inputs (k : Byte) : (reportKey k s).inputs = s.inputs := rfl
@[simp] theorem reportKey_out_res (k : Byte) : (reportKey k s).out.res = s.out.res := rfl
@[simp] theorem reportKey_out_msg (k : Byte) : (reportKey k s).out.msg = some (.normal k) := rfl
@[simp] theorem reportKey_out_act (k : Byte) : (reportKey k s).out.act = s.out.act := rfl
@[simp] theorem reportKey_out_frameByte (k : Byte) : (reportKey k s).out.frameByte = s.out.frameByte := rfl

/-! ## `reportSpecial` -/

@[simp] theorem reportSpecial_cfg (code : SpecialCode) : (reportSpecial code s).cfg = s.cfg := rfl
@[simp] theorem reportSpecial_mode (code : SpecialCode) : (reportSpecial code s).mode = s.mode := rfl
@[simp] theorem reportSpecial_drop (code : SpecialCode) : (reportSpecial code s).drop = s.drop := rfl
@[simp] theorem reportSpecial_len (code : SpecialCode) : (reportSpecial code s).len = s.len := rfl
@[simp] theorem reportSpecial_buf (code : SpecialCode) : (reportSpecial code s).buf = s.buf := rfl
@[simp] theorem reportSpecial_key (code : SpecialCode) : (reportSpecial code s).key = s.key := rfl
@[simp] theorem reportSpecial_last (code : SpecialCode) : (reportSpecial code s).last = s.last := rfl
@[simp] theorem reportSpecial_window (code : SpecialCode) : (reportSpecial code s).window = s.window := rfl
@[simp] theorem reportSpecial_draw (code : SpecialCode) : (reportSpecial code s).draw = s.draw := rfl
@[simp] theorem reportSpecial_inputs (code : SpecialCode) : (reportSpecial code s).inputs = s.inputs := rfl
@[simp] theorem reportSpecial_out_res (code : SpecialCode) : (reportSpecial code s).out.res = s.out.res := rfl
@[simp] theorem reportSpecial_out_msg (code : SpecialCode) : (reportSpecial code s).out.msg = some (.special code) := rfl
@[simp] theorem reportSpecial_out_act (code : SpecialCode) : (reportSpecial code s).out.act = s.out.act := rfl
@[simp] theorem reportSpecial_out_frameByte (code : SpecialCode) : (reportSpecial code s).out.frameByte = s.out.frameByte := rfl

/-! ## `act` -/

@[simp] theorem act_cfg (a : Action) : (act a s).cfg = s.cfg := rfl
@[simp] theorem act_mode (a : Action) : (act a s).mode = s.mode := rfl
@[simp] theorem act_drop (a : Action) : (act a s).drop = s.drop := rfl
@[simp] theorem act_len (a : Action) : (act a s).len = s.len := rfl
@[simp] theorem act_buf (a : Action) : (act a s).buf = s.buf := rfl
@[simp] theorem act_key (a : Action) : (act a s).key = s.key := rfl
@[simp] theorem act_last (a : Action) : (act a s).last = s.last := rfl
@[simp] theorem act_window (a : Action) : (act a s).window = s.window := rfl
@[simp] theorem act_draw (a : Action) : (act a s).draw = s.draw := rfl
@[simp] theorem act_inputs (a : Action) : (act a s).inputs = s.inputs := rfl
@[simp] theorem act_out_res (a : Action) : (act a s).out.res = s.out.res := rfl
@[simp] theorem act_out_msg (a : Action) : (act a s).out.msg = s.out.msg := rfl
@[simp] theorem act_out_act (a : Action) : (act a s).out.act = some a := rfl
@[simp] theorem act_out_frameByte (a : Action) : (act a s).out.frameByte = s.out.frameByte := rfl

/-! ## `actOn` -/

@[simp] theorem actOn_cfg (a : Action) (msg : Message) : (actOn a msg s).cfg = s.cfg := rfl
@[simp] theorem actOn_mode (a : Action) (msg : Message) : (actOn a msg s).mode = s.mode := rfl
@[simp] theorem actOn_drop (a : Action) (msg : Message) : (actOn a msg s).drop = s.drop := rfl
@[simp] theorem actOn_len (a : Action) (msg : Message) : (actOn a msg s).len = s.len := rfl
@[simp] theorem actOn_buf (a : Action) (msg : Message) : (actOn a msg s).buf = s.buf := rfl
@[simp] theorem actOn_key (a : Action) (msg : Message) : (actOn a msg s).key = s.key := rfl
@[simp] theorem actOn_last (a : Action) (msg : Message) : (actOn a msg s).last = msg := rfl
@[simp] theorem actOn_window (a : Action) (msg : Message) : (actOn a msg s).window = s.window := rfl
@[simp] theorem actOn_draw (a : Action) (msg : Message) : (actOn a msg s).draw = s.draw := rfl
@[simp] theorem actOn_inputs (a : Action) (msg : Message) : (actOn a msg s).inputs = s.inputs := rfl
@[simp] theorem actOn_out_res (a : Action) (msg : Message) : (actOn a msg s).out.res = s.out.res := rfl
@[simp] theorem actOn_out_msg (a : Action) (msg : Message) : (actOn a msg s).out.msg = s.out.msg := rfl
@[simp] theorem actOn_out_act (a : Action) (msg : Message) : (actOn a msg s).out.act = some a := rfl
@[simp] theorem actOn_out_frameByte (a : Action) (msg : Message) : (actOn a msg s).out.frameByte = s.out.frameByte := rfl

/-! ## `resetBlock` -/

@[simp] theorem resetBlock_cfg : (resetBlock s).cfg = s.cfg := rfl
@[simp] theorem resetBlock_mode : (resetBlock s).mode = .normal := rfl
@[simp] theorem resetBlock_drop : (resetBlock s).drop = false := rfl
@[simp] theorem resetBlock_len : (resetBlock s).len = 0 := rfl
@[simp] theorem resetBlock_buf : (resetBlock s).buf = s.buf := rfl
@[simp] theorem resetBlock_key : (resetBlock s).key = 0x00 := rfl
@[simp] theorem resetBlock_last : (resetBlock s).last = .normal 0x00 := rfl
@[simp] theorem resetBlock_window : (resetBlock s).window = none := rfl
@[simp] theorem resetBlock_draw : (resetBlock s).draw = s.draw + 1 := rfl
@[simp] theorem resetBlock_inputs : (resetBlock s).inputs = s.inputs := rfl
@[simp] theorem resetBlock_out_res : (resetBlock s).out.res = none := rfl
@[simp] theorem resetBlock_out_msg : (resetBlock s).out.msg = none := rfl
@[simp] theorem resetBlock_out_act : (resetBlock s).out.act = none := rfl
@[simp] theorem resetBlock_out_frameByte : (resetBlock s).out.frameByte = none := rfl

/-! ## `clearOutputs` -/

@[simp] theorem clearOutputs_cfg : (clearOutputs s).cfg = s.cfg := rfl
@[simp] theorem clearOutputs_mode : (clearOutputs s).mode = s.mode := rfl
@[simp] theorem clearOutputs_drop : (clearOutputs s).drop = s.drop := rfl
@[simp] theorem clearOutputs_len : (clearOutputs s).len = s.len := rfl
@[simp] theorem clearOutputs_buf : (clearOutputs s).buf = s.buf := rfl
@[simp] theorem clearOutputs_key : (clearOutputs s).key = s.key := rfl
@[simp] theorem clearOutputs_last : (clearOutputs s).last = s.last := rfl
@[simp] theorem clearOutputs_window : (clearOutputs s).window = s.window := rfl
@[simp] theorem clearOutputs_draw : (clearOutputs s).draw = s.draw := rfl
@[simp] theorem clearOutputs_inputs : (clearOutputs s).inputs = s.inputs := rfl
@[simp] theorem clearOutputs_out_res : (clearOutputs s).out.res = none := rfl
@[simp] theorem clearOutputs_out_msg : (clearOutputs s).out.msg = none := rfl
@[simp] theorem clearOutputs_out_act : (clearOutputs s).out.act = none := rfl
@[simp] theorem clearOutputs_out_frameByte : (clearOutputs s).out.frameByte = none := rfl

/-! ## `consume` -/

@[simp] theorem consume_cfg : (consume s).cfg = s.cfg := rfl
@[simp] theorem consume_mode : (consume s).mode = s.mode := rfl
@[simp] theorem consume_drop : (consume s).drop = s.drop := rfl
@[simp] theorem consume_len : (consume s).len = s.len := rfl
@[simp] theorem consume_buf : (consume s).buf = s.buf := rfl
@[simp] theorem consume_key : (consume s).key = s.key := rfl
@[simp] theorem consume_last : (consume s).last = s.last := rfl
@[simp] theorem consume_window : (consume s).window = s.window := rfl
@[simp] theorem consume_draw : (consume s).draw = s.draw := rfl
@[simp] theorem consume_inputs : (consume s).inputs = s.inputs.tail := rfl
@[simp] theorem consume_out_res : (consume s).out.res = s.out.res := rfl
@[simp] theorem consume_out_msg : (consume s).out.msg = s.out.msg := rfl
@[simp] theorem consume_out_act : (consume s).out.act = s.out.act := rfl
@[simp] theorem consume_out_frameByte : (consume s).out.frameByte = s.out.frameByte := rfl

/-! ## `present` -/

@[simp] theorem present_cfg (p : PortInput) : (present p s).cfg = s.cfg := rfl
@[simp] theorem present_mode (p : PortInput) : (present p s).mode = s.mode := rfl
@[simp] theorem present_drop (p : PortInput) : (present p s).drop = s.drop := rfl
@[simp] theorem present_len (p : PortInput) : (present p s).len = s.len := rfl
@[simp] theorem present_buf (p : PortInput) : (present p s).buf = s.buf := rfl
@[simp] theorem present_key (p : PortInput) : (present p s).key = s.key := rfl
@[simp] theorem present_last (p : PortInput) : (present p s).last = s.last := rfl
@[simp] theorem present_window (p : PortInput) : (present p s).window = s.window := rfl
@[simp] theorem present_draw (p : PortInput) : (present p s).draw = s.draw := rfl
@[simp] theorem present_inputs (p : PortInput) : (present p s).inputs = p :: s.inputs := rfl
@[simp] theorem present_out_res (p : PortInput) : (present p s).out.res = s.out.res := rfl
@[simp] theorem present_out_msg (p : PortInput) : (present p s).out.msg = s.out.msg := rfl
@[simp] theorem present_out_act (p : PortInput) : (present p s).out.act = s.out.act := rfl
@[simp] theorem present_out_frameByte (p : PortInput) : (present p s).out.frameByte = s.out.frameByte := rfl

/-! ## `readPort` -/

@[simp] theorem readPort_cfg (idx : Option Nat) : (readPort idx s).cfg = s.cfg := by cases idx <;> rfl
@[simp] theorem readPort_mode (idx : Option Nat) : (readPort idx s).mode = s.mode := by cases idx <;> rfl
@[simp] theorem readPort_drop (idx : Option Nat) : (readPort idx s).drop = s.drop := by cases idx <;> rfl
@[simp] theorem readPort_len (idx : Option Nat) : (readPort idx s).len = s.len := by cases idx <;> rfl
@[simp] theorem readPort_buf (idx : Option Nat) : (readPort idx s).buf = s.buf := by cases idx <;> rfl
@[simp] theorem readPort_key (idx : Option Nat) : (readPort idx s).key = s.key := by cases idx <;> rfl
@[simp] theorem readPort_last (idx : Option Nat) : (readPort idx s).last = s.last := by cases idx <;> rfl
@[simp] theorem readPort_window (idx : Option Nat) : (readPort idx s).window = s.window := by cases idx <;> rfl
@[simp] theorem readPort_draw (idx : Option Nat) : (readPort idx s).draw = s.draw := by cases idx <;> rfl
@[simp] theorem readPort_inputs (idx : Option Nat) : (readPort idx s).inputs = s.inputs := by cases idx <;> rfl
@[simp] theorem readPort_out_res (idx : Option Nat) : (readPort idx s).out.res = s.out.res := by cases idx <;> rfl
@[simp] theorem readPort_out_msg (idx : Option Nat) : (readPort idx s).out.msg = s.out.msg := by cases idx <;> rfl
@[simp] theorem readPort_out_act (idx : Option Nat) : (readPort idx s).out.act = s.out.act := by cases idx <;> rfl
@[simp] theorem readPort_none : readPort none s = s := rfl
@[simp] theorem readPort_some_out_frameByte (i : Nat) :
    (readPort (some i) s).out.frameByte = some (frameByteAt s i) := rfl

/-! ## The context selection reads -/

@[simp] theorem context_drop : s.context.drop = s.drop := rfl
@[simp] theorem context_mode : s.context.mode = s.mode := rfl
@[simp] theorem context_len : s.context.len = s.len := rfl
@[simp] theorem context_last : s.context.last = s.last := rfl
@[simp] theorem clearOutputs_context : (clearOutputs s).context = s.context := rfl
@[simp] theorem consume_context : (consume s).context = s.context := rfl
@[simp] theorem present_context (p : PortInput) : (present p s).context = s.context := rfl
@[simp] theorem presented_present (p : PortInput) : presented (present p s) = p := rfl
@[simp] theorem consume_present (p : PortInput) : consume (present p s) = s := rfl

end Sys2Proof.Machine
end

