-- ==== Sys2Proof/Laws/Exec.lean ====
section
/-! SUPPORT. What an operation, a `FEED` and a `SAMPLE` can do, said once. -/

namespace Sys2Proof.Machine

/-! ## `whenSelected`, `andThen` -/

theorem whenSelected_of {i : Instr} {s : State} (t : State)
    (h : i.selectedIn s.cfg s.context = true) : whenSelected i s t = .next t := by
  simp [whenSelected, h]

theorem whenSelected_of_not {i : Instr} {s : State} (t : State)
    (h : i.selectedIn s.cfg s.context = false) : whenSelected i s t = .refused .notSelected := by
  simp [whenSelected, h]

theorem whenSelected_next {i : Instr} {s t u : State} (h : whenSelected i s t = .next u) :
    i.selectedIn s.cfg s.context = true ∧ u = t := by
  unfold whenSelected at h
  split at h
  · exact ⟨‹_›, by injection h with h; exact h.symm⟩
  · cases h

@[simp] theorem andThen_next (s : State) (f : State → Host.Outcome State Fault Refusal) :
    andThen (.next s) f = f s := rfl

@[simp] theorem andThen_refused (r : Refusal) (f : State → Host.Outcome State Fault Refusal) :
    andThen (.refused r) f = .refused r := rfl

theorem andThen_eq_next {o : Host.Outcome State Fault Refusal}
    {f : State → Host.Outcome State Fault Refusal} {t : State} (h : andThen o f = .next t) :
    ∃ s, o = .next s ∧ f s = .next t := by
  cases o with
  | next s => exact ⟨s, rfl, h⟩
  | fault r => cases h
  | refused r => cases h

/-! ## The state an operation gives where it runs -/

/-- The next state of each operation of `FD`, `IT`, `ED` and of `RESET`. -/
def nextState (i : Instr) (s : State) : State :=
  match i with
  | .fdDropEnd => answer .pending (closeDropWindow s)
  | .fdDropSkip _ => answer .pending s
  | .fdNEndFrame => completeFrame s
  | .fdNEndEmpty => answer .pending s
  | .fdNEsc => answer .pending (setMode .escaped s)
  | .fdNData b => answer .pending (append b s)
  | .fdNDataOvf _ => raiseError .overflow s
  | .fdEEscEnd => answer .pending (setMode .normal (append (Marker.literal s.cfg .escEnd) s))
  | .fdEEscEsc => answer .pending (setMode .normal (append (Marker.literal s.cfg .escEsc) s))
  | .fdEOvf _ => raiseError .overflow s
  | .fdEInvalid _ => raiseError .invalidEscape s
  | .itNone => reportKey s.key s
  | .itPress c => reportKey (pressKey c s.key) s
  | .itRelease c => reportKey (releaseKey c s.key) s
  | .itHat l u d r => reportKey (hatKey l u d r s.key) s
  | .itSpecialQuit => reportSpecial .quit s
  | .itSpecialResetdisplay => reportSpecial .resetDisplay s
  | .itHotplug => reportKey s.key s
  | .evReserved _ => s
  | .edSame _ => act .noAction s
  | .edTxinput m => actOn (.txInput m) (.normal m) s
  | .edTxreset => actOn .txResetDisplay (.special .resetDisplay) s
  | .edQuit => actOn .quitReq (.special .quit) s
  | .reset => resetBlock s

/-- Where R64 selects an operation, it gives its next state. -/
theorem exec_of_selected {i : Instr} {s : State} (hr : ∀ k, i ≠ .evReserved k)
    (h : i.selectedIn s.cfg s.context = true) : exec i s = .next (nextState i s) := by
  cases i <;> first | exact whenSelected_of _ h | rfl | exact absurd rfl (hr _)

/-- An operation that gives a next state was selected, and the state is its own. -/
theorem exec_next {i : Instr} {s t : State} (h : exec i s = .next t) :
    i.selectedIn s.cfg s.context = true ∧ t = nextState i s := by
  cases i <;> first
    | exact whenSelected_next h
    | exact ⟨rfl, (Host.Outcome.next.inj h).symm⟩
    | cases h

/-! ## `FEED` -/

/-- Every `FEED` gives the next state of the operation it selects (R65). -/
theorem runFeed_eq (b : Byte) (s : State) :
    runFeed b s = .next (nextState (decodeFeed s.cfg s.context b) s) := by
  refine exec_of_selected (fun k h => ?_) (decodeFeed_selectedIn ..)
  have he := encode_decodeFeed s.cfg s.context b
  rw [h] at he
  cases he

/-- A `FEED` in a drop window (R68, R69). -/
theorem runFeed_dropping {s : State} (b : Byte) (h : s.drop = true) :
    runFeed b s = .next
      (if b = s.cfg.endByte then answer .pending (closeDropWindow s) else answer .pending s) := by
  rw [runFeed_eq]
  simp only [decodeFeed, context_drop, h, if_true, decodeDropping]
  split <;> rfl

/-- A `FEED` in `Normal` mode (R70, R71, R72, R76, R77). -/
theorem runFeed_normal {s : State} (b : Byte) (hd : s.drop = false) (hm : s.mode = .normal) :
    runFeed b s = .next
      (if b = s.cfg.endByte then (if 0 < s.len then completeFrame s else answer .pending s)
       else if b = s.cfg.escByte then answer .pending (setMode .escaped s)
       else if s.len < s.cfg.capacity then answer .pending (append b s)
       else raiseError .overflow s) := by
  have hi : decodeFeed s.cfg s.context b = decodeNormal s.cfg s.len b := by
    simp [decodeFeed, hd, hm]
  rw [runFeed_eq, hi, decodeNormal]
  repeat' split
  all_goals rfl

/-- A `FEED` in `Escaped` mode (R73, R74, R75, R78). -/
theorem runFeed_escaped {s : State} (b : Byte) (hd : s.drop = false) (hm : s.mode = .escaped) :
    runFeed b s = .next
      (if b = s.cfg.escEnd then
        (if s.len < s.cfg.capacity
          then answer .pending (setMode .normal (append s.cfg.endByte s))
          else raiseError .overflow s)
       else if b = s.cfg.escEsc then
        (if s.len < s.cfg.capacity
          then answer .pending (setMode .normal (append s.cfg.escByte s))
          else raiseError .overflow s)
       else raiseError .invalidEscape s) := by
  have hi : decodeFeed s.cfg s.context b = decodeEscaped s.cfg s.len b := by
    simp [decodeFeed, hd, hm]
  rw [runFeed_eq, hi, decodeEscaped]
  repeat' split
  all_goals rfl

/-- Everything a `FEED` can do to the state (R79). -/
theorem runFeed_cases {b : Byte} {s t : State} (h : runFeed b s = .next t) :
    (t = answer .pending s) ∨
    (s.drop = true ∧ t = answer .pending (closeDropWindow s)) ∨
    (s.drop = false ∧ s.mode = .normal ∧ 0 < s.len ∧ t = completeFrame s) ∨
    (s.drop = false ∧ s.mode = .normal ∧ t = answer .pending (setMode .escaped s)) ∨
    (∃ v, s.drop = false ∧ s.len < s.cfg.capacity ∧
      t = answer .pending (setMode .normal (append v s))) ∨
    (s.drop = false ∧ s.cfg.capacity ≤ s.len ∧ t = raiseError .overflow s) ∨
    (s.drop = false ∧ s.mode = .escaped ∧ t = raiseError .invalidEscape s) := by
  rcases Bool.eq_false_or_eq_true s.drop with hd | hd
  · rw [runFeed_dropping b hd] at h
    have h := (Host.Outcome.next.inj h).symm
    split at h
    · exact .inr (.inl ⟨hd, h⟩)
    · exact .inl h
  · rcases hm : s.mode with _ | _
    · have hs : ∀ v, append v s = setMode .normal (append v s) := fun v => by
        rw [← hm]; rfl
      rw [runFeed_normal b hd hm] at h
      have h := (Host.Outcome.next.inj h).symm
      split at h
      · split at h
        · exact .inr (.inr (.inl ⟨hd, rfl, ‹_›, h⟩))
        · exact .inl h
      · split at h
        · exact .inr (.inr (.inr (.inl ⟨hd, rfl, h⟩)))
        · split at h
          · exact .inr (.inr (.inr (.inr (.inl ⟨b, hd, ‹_›, by rw [← hs, h]⟩))))
          · exact .inr (.inr (.inr (.inr (.inr (.inl ⟨hd, by omega, h⟩)))))
    · rw [runFeed_escaped b hd hm] at h
      have h := (Host.Outcome.next.inj h).symm
      split at h
      · split at h
        · exact .inr (.inr (.inr (.inr (.inl ⟨_, hd, ‹_›, h⟩))))
        · exact .inr (.inr (.inr (.inr (.inr (.inl ⟨hd, by omega, h⟩)))))
      · split at h
        · split at h
          · exact .inr (.inr (.inr (.inr (.inl ⟨_, hd, ‹_›, h⟩))))
          · exact .inr (.inr (.inr (.inr (.inr (.inl ⟨hd, by omega, h⟩)))))
        · exact .inr (.inr (.inr (.inr (.inr (.inr ⟨hd, rfl, h⟩)))))

/-! ## `SAMPLE` -/

/-- What an event makes of `key` (R86 to R92). -/
def keyAfter (i : Instr) (key : Byte) : Byte :=
  match i with
  | .itPress c => pressKey c key
  | .itRelease c => releaseKey c key
  | .itHat l u d r => hatKey l u d r key
  | _ => key

/-- The message of an event (R85, R90, R91). -/
def messageOf (i : Instr) (key : Byte) : Message :=
  match i with
  | .itSpecialQuit => .special .quit
  | .itSpecialResetdisplay => .special .resetDisplay
  | i => .normal (keyAfter i key)

/-- The action on a message that differs from `last` (R102 to R104). -/
def actionOf : Message → Action
  | .normal m => .txInput m
  | .special .resetDisplay => .txResetDisplay
  | .special .quit => .quitReq

/-- What an event word selects: one of the seven `IT` operations, or a reserved kind. -/
theorem decodeEvent_cases (ev : EventWord) :
    (decodeEvent ev = .itNone ∨ (∃ c, decodeEvent ev = .itPress c) ∨
      (∃ c, decodeEvent ev = .itRelease c) ∨ (∃ l u d r, decodeEvent ev = .itHat l u d r) ∨
      decodeEvent ev = .itSpecialQuit ∨ decodeEvent ev = .itSpecialResetdisplay ∨
      decodeEvent ev = .itHotplug) ∨ ∃ k, decodeEvent ev = .evReserved k := by
  unfold decodeEvent
  split
  · exact .inl (.inl rfl)
  · exact .inl (.inr (.inl ⟨_, rfl⟩))
  · exact .inl (.inr (.inr (.inl ⟨_, rfl⟩)))
  · exact .inl (.inr (.inr (.inr (.inl ⟨_, _, _, _, rfl⟩))))
  · split
    · exact .inl (.inr (.inr (.inr (.inr (.inr (.inl rfl))))))
    · exact .inl (.inr (.inr (.inr (.inr (.inl rfl)))))
  · exact .inl (.inr (.inr (.inr (.inr (.inr (.inr rfl))))))
  · exact .inr ⟨_, rfl⟩
  · exact .inr ⟨_, rfl⟩

/-- The state after the first half of a `SAMPLE`: `key` and `msg` are written, nothing else. -/
def translated (i : Instr) (s : State) : State :=
  { s with key := keyAfter i s.key, out := { s.out with msg := some (messageOf i s.key) } }

/-- The state after the second half: `last` is the message, which gives an action if it differed. -/
def edged (msg : Message) (s : State) : State :=
  { s with
    last := msg,
    out := { s.out with act := some (if msg = s.last then .noAction else actionOf msg) } }

/-- The state after a `SAMPLE` (R108). -/
def sampled (i : Instr) (s : State) : State := edged (messageOf i s.key) (translated i s)

section
variable (i : Instr) (s : State)
@[simp] theorem sampled_cfg : (sampled i s).cfg = s.cfg := rfl
@[simp] theorem sampled_mode : (sampled i s).mode = s.mode := rfl
@[simp] theorem sampled_drop : (sampled i s).drop = s.drop := rfl
@[simp] theorem sampled_len : (sampled i s).len = s.len := rfl
@[simp] theorem sampled_buf : (sampled i s).buf = s.buf := rfl
@[simp] theorem sampled_window : (sampled i s).window = s.window := rfl
@[simp] theorem sampled_draw : (sampled i s).draw = s.draw := rfl
@[simp] theorem sampled_inputs : (sampled i s).inputs = s.inputs := rfl
@[simp] theorem sampled_key : (sampled i s).key = keyAfter i s.key := rfl
@[simp] theorem sampled_last : (sampled i s).last = messageOf i s.key := rfl
@[simp] theorem sampled_out_res : (sampled i s).out.res = s.out.res := rfl
@[simp] theorem sampled_out_msg : (sampled i s).out.msg = some (messageOf i s.key) := rfl
@[simp] theorem sampled_out_act : (sampled i s).out.act =
    some (if messageOf i s.key = s.last then .noAction else actionOf (messageOf i s.key)) := rfl
@[simp] theorem sampled_out_frameByte : (sampled i s).out.frameByte = s.out.frameByte := rfl
end

/-- The first half of a `SAMPLE` of a legal event. -/
theorem exec_event {ev : EventWord} (s : State) (h : ∀ k, decodeEvent ev ≠ .evReserved k) :
    exec (decodeEvent ev) s = .next (translated (decodeEvent ev) s) := by
  rcases decodeEvent_cases ev with hc | ⟨k, hk⟩
  · rcases hc with hc | ⟨c, hc⟩ | ⟨c, hc⟩ | ⟨l, u, d, r, hc⟩ | hc | hc | hc <;> rw [hc] <;> rfl
  · exact absurd hk (h k)

/-- The second half of a `SAMPLE`. -/
theorem runEdge_eq {s : State} {msg : Message} (h : s.out.msg = some msg) :
    runEdge s = .next (edged msg s) := by
  have hx : runEdge s = .next (nextState (decodeMessage s.last msg) s) := by
    simp only [runEdge, h]
    refine exec_of_selected (fun k hk => ?_) (decodeMessage_selectedIn s.cfg s.context msg)
    have he := encode_decodeMessage s.cfg s.last msg
    rw [hk] at he
    cases he
  rw [hx]
  by_cases hl : msg = s.last
  · subst hl
    simp only [decodeMessage, if_true, nextState, act, edged]
  · rcases msg with m | code
    · simp only [decodeMessage, hl, if_false, edged]; rfl
    · cases code <;> simp only [decodeMessage, hl, if_false, edged] <;> rfl

/-- Everything a `SAMPLE` of a legal event does (R108). -/
theorem runSample_eq {ev : EventWord} (s : State) (h : ∀ k, decodeEvent ev ≠ .evReserved k) :
    runSample ev s = .next (sampled (decodeEvent ev) s) := by
  rw [runSample, exec_event s h, andThen_next, runEdge_eq rfl]
  rfl

/-- A `SAMPLE` of a reserved kind is refused (R62). -/
theorem runSample_reserved {ev : EventWord} {k : Bool} (s : State)
    (h : decodeEvent ev = .evReserved k) : runSample ev s = .refused .reservedEventKind := by
  rw [runSample, h]; rfl

/-- A `SAMPLE` that gives a next state had a legal event, and the state is the one `runSample_eq` says. -/
theorem runSample_next {ev : EventWord} {s t : State} (h : runSample ev s = .next t) :
    (∀ k, decodeEvent ev ≠ .evReserved k) ∧ t = sampled (decodeEvent ev) s := by
  have hl : ∀ k, decodeEvent ev ≠ .evReserved k := fun k hk => by
    rw [runSample_reserved s hk] at h; cases h
  rw [runSample_eq s hl] at h
  exact ⟨hl, (Host.Outcome.next.inj h).symm⟩

end Sys2Proof.Machine
end

