-- ==== Sys2Proof/Laws/PerInstr.lean ====
section
/-! SUPPORT. For every operation: where R64 selects it, its word decodes to it. One lemma per constructor
of `Instr`. -/

namespace Sys2Proof.Laws.RoundTrip

/-- The word of `i` decodes to `i` in every context that selects it, in every well-formed instance. -/
def Statement (i : Instr) : Prop :=
  ∀ (cfg : Config) (c : Context), cfg.WellFormed → i.selectedIn cfg c = true →
    decode cfg c (encode cfg i) = .ok i

theorem fdDropEnd : Statement .fdDropEnd := by
  intro cfg c hc h
  simp_all [Instr.selectedIn, Instr.wellFormed, Instr.stateCondition, encode, decode, decodeFeed,
    decodeDropping]

theorem fdDropSkip (b : Byte) : Statement (.fdDropSkip b) := by
  intro cfg c hc h
  simp_all [Instr.selectedIn, Instr.wellFormed, Instr.stateCondition, encode, decode, decodeFeed,
    decodeDropping]

theorem fdNEndFrame : Statement .fdNEndFrame := by
  intro cfg c hc h
  simp_all [Instr.selectedIn, Instr.wellFormed, Instr.stateCondition, encode, decode, decodeFeed,
    decodeNormal]

theorem fdNEndEmpty : Statement .fdNEndEmpty := by
  intro cfg c hc h
  simp_all [Instr.selectedIn, Instr.wellFormed, Instr.stateCondition, encode, decode, decodeFeed,
    decodeNormal]

theorem fdNEsc : Statement .fdNEsc := by
  intro cfg c hc h
  have h1 := hc.2.1.symm
  simp_all [Instr.selectedIn, Instr.wellFormed, Instr.stateCondition, encode, decode, decodeFeed,
    decodeNormal]

theorem fdNData (b : Byte) : Statement (.fdNData b) := by
  intro cfg c hc h
  simp_all [Instr.selectedIn, Instr.wellFormed, Instr.stateCondition, encode, decode, decodeFeed,
    decodeNormal]

theorem fdNDataOvf (b : Byte) : Statement (.fdNDataOvf b) := by
  intro cfg c hc h
  have h1 : ¬ c.len < cfg.capacity := by
    simp_all [Instr.selectedIn, Instr.wellFormed, Instr.stateCondition]
  simp_all [Instr.selectedIn, Instr.wellFormed, Instr.stateCondition, encode, decode, decodeFeed,
    decodeNormal]

theorem fdEEscEnd : Statement .fdEEscEnd := by
  intro cfg c hc h
  simp_all [Instr.selectedIn, Instr.wellFormed, Instr.stateCondition, encode, decode, decodeFeed,
    decodeEscaped]

theorem fdEEscEsc : Statement .fdEEscEsc := by
  intro cfg c hc h
  have h1 := hc.2.2.2.2.2.2.symm
  simp_all [Instr.selectedIn, Instr.wellFormed, Instr.stateCondition, encode, decode, decodeFeed,
    decodeEscaped]

theorem fdEOvf (marker : Marker) : Statement (.fdEOvf marker) := by
  intro cfg c hc h
  have h1 := hc.2.2.2.2.2.2.symm
  have h2 : ¬ c.len < cfg.capacity := by
    simp_all [Instr.selectedIn, Instr.wellFormed, Instr.stateCondition]
  cases marker <;>
    simp_all [Instr.selectedIn, Instr.wellFormed, Instr.stateCondition, encode, decode, decodeFeed,
      decodeEscaped, Marker.byte]

theorem fdEInvalid (b : Byte) : Statement (.fdEInvalid b) := by
  intro cfg c hc h
  simp_all [Instr.selectedIn, Instr.wellFormed, Instr.stateCondition, encode, decode, decodeFeed,
    decodeEscaped]

theorem itNone : Statement .itNone := fun _ _ _ _ => rfl

theorem itPress (c : Control) : Statement (.itPress c) := by
  intro cfg ctx _ _
  cases c <;> rfl

theorem itRelease (c : Control) : Statement (.itRelease c) := by
  intro cfg ctx _ _
  cases c <;> rfl

theorem itHat (l u d r : Bool) : Statement (.itHat l u d r) := by
  intro cfg c _ _
  cases l <;> cases u <;> cases d <;> cases r <;> rfl

theorem itSpecialQuit : Statement .itSpecialQuit := fun _ _ _ _ => rfl

theorem itSpecialResetdisplay : Statement .itSpecialResetdisplay := fun _ _ _ _ => rfl

theorem itHotplug : Statement .itHotplug := fun _ _ _ _ => rfl

theorem evReserved (kind7 : Bool) : Statement (.evReserved kind7) := by
  intro cfg c _ _
  cases kind7 <;> rfl

theorem edSame (msg : Message) : Statement (.edSame msg) := by
  intro cfg c _ h
  simp_all [Instr.selectedIn, Instr.wellFormed, Instr.stateCondition, encode, decode, decodeMessage]

theorem edTxinput (m : Byte) : Statement (.edTxinput m) := by
  intro cfg c _ h
  simp_all [Instr.selectedIn, Instr.wellFormed, Instr.stateCondition, encode, decode, decodeMessage]

theorem edTxreset : Statement .edTxreset := by
  intro cfg c _ h
  simp_all [Instr.selectedIn, Instr.wellFormed, Instr.stateCondition, encode, decode, decodeMessage]

theorem edQuit : Statement .edQuit := by
  intro cfg c _ h
  simp_all [Instr.selectedIn, Instr.wellFormed, Instr.stateCondition, encode, decode, decodeMessage]

theorem reset : Statement .reset := fun _ _ _ _ => rfl

end Sys2Proof.Laws.RoundTrip
end

