-- ==== Sys2Proof/Laws/Step.lean ====
section
/-! SUPPORT. What a step and a run can do, said once. -/

namespace Sys2Proof.Machine

/-- A step that gives a next state: its instance is well-formed, its operations gave a state, and the
frame read port was looked at there. -/
theorem step_next {s t : State} (h : step s = .next t) :
    s.cfg.WellFormed ∧ ∃ u, runPorts (presented s) (clearOutputs (consume s)) = .next u ∧
      t = readPort (presented s).frameIdx u := by
  unfold step stepPresented at h
  split at h
  · obtain ⟨u, hu, ht⟩ := andThen_eq_next h
    injection ht with ht
    exact ⟨‹_›, u, hu, ht.symm⟩
  · cases h

/-- The step of a well-formed instance. -/
theorem step_eq {s : State} (h : s.cfg.WellFormed) :
    step s = stepWith (presented s) (consume s) := by
  unfold step stepPresented
  rw [if_pos h]

/-- The operations of a step that give a next state: `RESET`, or the `FEED` and the `SAMPLE` presented. -/
theorem runPorts_next {p : PortInput} {s t : State} (h : runPorts p s = .next t) :
    (p.rst = true ∧ t = resetBlock s) ∨
    (p.rst = false ∧ ∃ u,
      ((p.feedValid = true ∧ runFeed p.feedByte s = .next u) ∨ (p.feedValid = false ∧ u = s)) ∧
      ((p.sampleValid = true ∧ runSample p.ev u = .next t) ∨ (p.sampleValid = false ∧ t = u))) := by
  unfold runPorts at h
  split at h
  · injection h with h
    exact .inl ⟨‹_›, h.symm⟩
  · obtain ⟨u, hu, ht⟩ := andThen_eq_next h
    refine .inr ⟨by simpa using ‹¬ p.rst = true›, u, ?_, ?_⟩
    · unfold runFeedPort at hu
      split at hu
      · exact .inl ⟨‹_›, hu⟩
      · injection hu with hu
        exact .inr ⟨by simpa using ‹¬ p.feedValid = true›, hu.symm⟩
    · unfold runSamplePort at ht
      split at ht
      · exact .inl ⟨‹_›, ht⟩
      · injection ht with ht
        exact .inr ⟨by simpa using ‹¬ p.sampleValid = true›, ht.symm⟩

/-- A legal event is none of the reserved kinds. -/
theorem legalEvent_iff (ev : EventWord) :
    legalEvent ev = true ↔ ∀ k, decodeEvent ev ≠ .evReserved k := by
  unfold legalEvent
  split
  · simp_all
  · simp_all

/-! ## Runs -/

@[simp] theorem runSymbols_nil (s : State) : runSymbols [] s = some ([], s) := rfl

theorem runSymbols_cons {p : PortInput} {ps : List PortInput} {s t : State}
    (h : step (present p s) = .next t) :
    runSymbols (p :: ps) s = (runSymbols ps t).map fun r => (t.out :: r.1, r.2) := by
  simp only [runSymbols, h]
  cases runSymbols ps t with
  | none => rfl
  | some r => rfl

theorem runSymbols_append {ps qs : List PortInput} {s t : State} {os : List PortOutput}
    (h : runSymbols ps s = some (os, t)) :
    runSymbols (ps ++ qs) s = (runSymbols qs t).map fun r => (os ++ r.1, r.2) := by
  induction ps generalizing s os with
  | nil => simp_all
  | cons p ps ih =>
    simp only [runSymbols, List.cons_append] at h ⊢
    split at h
    · split at h
      · rename_i u os' t' hu
        simp only [Option.some.injEq, Prod.mk.injEq] at h
        obtain ⟨rfl, rfl⟩ := h
        rw [ih hu]
        cases runSymbols qs t' <;> rfl
      · cases h
    · cases h
    · cases h

/-- Presenting one byte alone. -/
theorem step_feedPorts {s t : State} {b : Byte} (hc : s.cfg.WellFormed)
    (h : runFeed b (clearOutputs s) = .next t) : step (present (feedPorts b) s) = .next t := by
  rw [step_eq (s := present (feedPorts b) s) hc]
  simp only [presented_present, consume_present, stepWith, runPorts, feedPorts, portsOf, runFeedPort,
    runSamplePort, Bool.false_eq_true, if_false, if_true, h, andThen_next, readPort_none]

/-- A run that begins with one byte. -/
theorem runSymbols_feed_cons {s t : State} {b : Byte} (ps : List PortInput) (hc : s.cfg.WellFormed)
    (h : runFeed b (clearOutputs s) = .next t) :
    runSymbols (feedPorts b :: ps) s = (runSymbols ps t).map fun r => (t.out :: r.1, r.2) :=
  runSymbols_cons (step_feedPorts hc h)

/-- Presenting one event alone. -/
theorem step_samplePorts {s t : State} {ev : EventWord} (hc : s.cfg.WellFormed)
    (h : runSample ev (clearOutputs s) = .next t) : step (present (samplePorts ev) s) = .next t := by
  rw [step_eq (s := present (samplePorts ev) s) hc]
  simp only [presented_present, consume_present, stepWith, runPorts, samplePorts, portsOf, runFeedPort,
    runSamplePort, Bool.false_eq_true, if_false, if_true, h, andThen_next, readPort_none]

/-- A run that begins with one event. -/
theorem runSymbols_sample_cons {s t : State} {ev : EventWord} (ps : List PortInput)
    (hc : s.cfg.WellFormed) (h : runSample ev (clearOutputs s) = .next t) :
    runSymbols (samplePorts ev :: ps) s = (runSymbols ps t).map fun r => (t.out :: r.1, r.2) :=
  runSymbols_cons (step_samplePorts hc h)

/-- A step leaves the parameters as they are (R18). -/
theorem step_cfg {s t : State} (h : step s = .next t) : t.cfg = s.cfg := by
  obtain ⟨-, u, hu, rfl⟩ := step_next h
  rw [readPort_cfg]
  rcases runPorts_next hu with ⟨-, rfl⟩ | ⟨-, v, hv, hw⟩
  · rfl
  · have h1 : u.cfg = v.cfg := by
      rcases hw with ⟨-, hw⟩ | ⟨-, rfl⟩
      · rw [(runSample_next hw).2]; rfl
      · rfl
    rw [h1]
    rcases hv with ⟨-, hv⟩ | ⟨-, rfl⟩
    · rcases runFeed_cases hv with rfl | ⟨-, rfl⟩ | ⟨-, -, -, rfl⟩ | ⟨-, -, rfl⟩ | ⟨v, -, -, rfl⟩ |
        ⟨-, -, rfl⟩ | ⟨-, -, rfl⟩ <;> rfl
    · rfl

end Sys2Proof.Machine
end

