-- ==== Sys2Proof/Tests/Slice0.lean ====
section
/-! SUPPORT. Small tests of the model, with expected results taken from the spec, and a witness for every
statement that has hypotheses. -/

namespace Sys2Proof.Machine.Tests

/-! ## States the tests use -/

/-- The instance with R5's default bytes, capacity `c` and arbitrary tags. -/
def inst (c : Nat) : Config := ⟨c, 0xC0, 0xDB, 0xDC, 0xDD, 0x11, 0x22, 0x33⟩

/-- The bytes `bs` at indices `i`, `i + 1`, ... -/
def cells : Nat → List Byte → Buffer
  | _, [] => []
  | i, b :: bs => (i, b) :: cells (i + 1) bs

/-- The decoder state `(mode, drop, len, buf[0..len-1])` of the spec's examples, after a reset. -/
def fd (c : Nat) (m : Mode) (d : Bool) (bs : List Byte) : State :=
  { State.resetOf (inst c) with mode := m, drop := d, len := bs.length, buf := cells 0 bs }

/-- The input side `(key, last)` of the spec's examples, after a reset. -/
def io (key : Byte) (last : Message) : State :=
  { State.resetOf (inst 4) with key := key, last := last }

/-- What the spec's decoder examples show of an outcome: result, mode, drop, partial frame. -/
def fdView : Host.Outcome State Fault Refusal → Option (Option DecodeResult × Mode × Bool × List Byte)
  | .next t => some (t.out.res, t.mode, t.drop, partialFrame t)
  | _ => none

/-- What the spec's input examples show of an outcome: message, action, key, last. -/
def ioView : Host.Outcome State Fault Refusal → Option (Option Message × Option Action × Byte × Message)
  | .next t => some (t.out.msg, t.out.act, t.key, t.last)
  | _ => none

/-- One step that presents a byte. -/
def feed (b : Byte) (s : State) : Host.Outcome State Fault Refusal := step (present (feedPorts b) s)

/-- One step that presents an event word. -/
def sample (ev : EventWord) (s : State) : Host.Outcome State Fault Refusal :=
  step (present (samplePorts ev) s)

/-! ## `WellFormed`: each operand condition of R64 refuses a term, each constraint of R5 an instance -/

theorem test_wf_skip_refuses_END : (Instr.fdDropSkip 0xC0).wellFormed (inst 4) = false := by decide
theorem test_wf_data_refuses_END : (Instr.fdNData 0xC0).wellFormed (inst 4) = false := by decide
theorem test_wf_data_refuses_ESC : (Instr.fdNData 0xDB).wellFormed (inst 4) = false := by decide
theorem test_wf_ovf_refuses_END : (Instr.fdNDataOvf 0xC0).wellFormed (inst 4) = false := by decide
theorem test_wf_ovf_refuses_ESC : (Instr.fdNDataOvf 0xDB).wellFormed (inst 4) = false := by decide
theorem test_wf_invalid_refuses_ESC_END : (Instr.fdEInvalid 0xDC).wellFormed (inst 4) = false := by decide
theorem test_wf_invalid_refuses_ESC_ESC : (Instr.fdEInvalid 0xDD).wellFormed (inst 4) = false := by decide
theorem test_wf_data_admits_markers :
    (Instr.fdNData 0xDC).wellFormed (inst 4) = true ∧ (Instr.fdNData 0xDD).wellFormed (inst 4) = true := by
  decide
theorem test_config_refuses_capacity_zero : ¬ (inst 0).WellFormed := by decide
theorem test_config_refuses_equal_bytes :
    ¬ ({ inst 4 with escByte := 0xC0 } : Config).WellFormed ∧
    ¬ ({ inst 4 with escEnd := 0xC0 } : Config).WellFormed ∧
    ¬ ({ inst 4 with escEsc := 0xC0 } : Config).WellFormed ∧
    ¬ ({ inst 4 with escEnd := 0xDB } : Config).WellFormed ∧
    ¬ ({ inst 4 with escEsc := 0xDB } : Config).WellFormed ∧
    ¬ ({ inst 4 with escEsc := 0xDC } : Config).WellFormed := by decide

/-! ## Decoding: one word per operation, written out from `opcode_table.json` and R55, R56 -/

theorem test_decode_reset (c : Context) : decode (inst 4) c (.rst1 0b1) = .ok .reset := rfl
theorem test_decode_rst_low (c : Context) : decode (inst 4) c (.rst1 0b0) = .error .resetPortLow := rfl
theorem test_decode_drop_end :
    decode (inst 4) ⟨true, .normal, 0, .normal 0⟩ (.feed8 0b11000000) = .ok .fdDropEnd := rfl
theorem test_decode_drop_skip :
    decode (inst 4) ⟨true, .normal, 0, .normal 0⟩ (.feed8 0b11011011) = .ok (.fdDropSkip 0xDB) := rfl
theorem test_decode_end_frame :
    decode (inst 4) ⟨false, .normal, 1, .normal 0⟩ (.feed8 0b11000000) = .ok .fdNEndFrame := rfl
theorem test_decode_end_empty :
    decode (inst 4) ⟨false, .normal, 0, .normal 0⟩ (.feed8 0b11000000) = .ok .fdNEndEmpty := rfl
theorem test_decode_esc :
    decode (inst 4) ⟨false, .normal, 4, .normal 0⟩ (.feed8 0b11011011) = .ok .fdNEsc := rfl
theorem test_decode_data :
    decode (inst 4) ⟨false, .normal, 3, .normal 0⟩ (.feed8 0b11011100) = .ok (.fdNData 0xDC) := rfl
theorem test_decode_data_ovf :
    decode (inst 4) ⟨false, .normal, 4, .normal 0⟩ (.feed8 0b01000001) = .ok (.fdNDataOvf 0x41) := rfl
theorem test_decode_esc_end :
    decode (inst 4) ⟨false, .escaped, 3, .normal 0⟩ (.feed8 0b11011100) = .ok .fdEEscEnd := rfl
theorem test_decode_esc_esc :
    decode (inst 4) ⟨false, .escaped, 0, .normal 0⟩ (.feed8 0b11011101) = .ok .fdEEscEsc := rfl
theorem test_decode_e_ovf :
    decode (inst 4) ⟨false, .escaped, 4, .normal 0⟩ (.feed8 0b11011100) = .ok (.fdEOvf .escEnd) ∧
    decode (inst 4) ⟨false, .escaped, 4, .normal 0⟩ (.feed8 0b11011101) = .ok (.fdEOvf .escEsc) :=
  ⟨rfl, rfl⟩
theorem test_decode_e_invalid :
    decode (inst 4) ⟨false, .escaped, 4, .normal 0⟩ (.feed8 0b11000000) = .ok (.fdEInvalid 0xC0) := rfl
theorem test_decode_none (c : Context) : decode (inst 4) c (.ev11 0b00010100101) = .ok .itNone := rfl
theorem test_decode_press (c : Context) :
    decode (inst 4) c (.ev11 0b00100000010) = .ok (.itPress .right) := rfl
theorem test_decode_release (c : Context) :
    decode (inst 4) c (.ev11 0b01000000100) = .ok (.itRelease .select) := rfl
theorem test_decode_hat (c : Context) :
    decode (inst 4) c (.ev11 0b01100001001) = .ok (.itHat true false false true) := rfl
theorem test_decode_special_quit (c : Context) :
    decode (inst 4) c (.ev11 0b10011111110) = .ok .itSpecialQuit := rfl
theorem test_decode_special_resetdisplay (c : Context) :
    decode (inst 4) c (.ev11 0b10000000001) = .ok .itSpecialResetdisplay := rfl
theorem test_decode_hotplug (c : Context) :
    decode (inst 4) c (.ev11 0b10111111111) = .ok .itHotplug := rfl
theorem test_decode_reserved (c : Context) :
    decode (inst 4) c (.ev11 0b11000000000) = .ok (.evReserved false) ∧
    decode (inst 4) c (.ev11 0b11100000000) = .ok (.evReserved true) := ⟨rfl, rfl⟩
theorem test_decode_same :
    decode (inst 4) ⟨false, .normal, 0, .special .quit⟩ (.msg9 0b100000000) =
      .ok (.edSame (.special .quit)) := rfl
theorem test_decode_txinput :
    decode (inst 4) ⟨false, .normal, 0, .special .quit⟩ (.msg9 0b000000000) = .ok (.edTxinput 0x00) := rfl
theorem test_decode_txreset :
    decode (inst 4) ⟨false, .normal, 0, .normal 0x01⟩ (.msg9 0b100000001) = .ok .edTxreset := rfl
theorem test_decode_quit :
    decode (inst 4) ⟨false, .normal, 0, .normal 0x00⟩ (.msg9 0b100000000) = .ok .edQuit := rfl
theorem test_decode_no_message :
    decode (inst 4) ⟨false, .normal, 0, .normal 0⟩ (.msg9 0b100000010) = .error .noSuchMessage := rfl

/-- The words of the table as the host numbers them: RST1, FEED8 and EV11 (log 19). -/
theorem test_table_words :
    decodeTableWord 8 0x01 = some .reset ∧ decodeTableWord 8 0xC0 = some .fdNEndEmpty ∧
    decodeTableWord 8 0xDB = some .fdNEsc ∧ decodeTableWord 16 0x106 = some (.itPress .up) ∧
    decodeTableWord 16 0x600 = some (.evReserved false) := by decide

/-- A word presented is the operation the next step runs. -/
theorem test_withFetchWord :
    ioView (step ((State.resetOf (inst 4)).withFetchWord 16 0x106)) =
      some (some (.normal 0x40), some (.txInput 0x40), 0x40, .normal 0x40) := by decide

/-! ## One step per operation: the worked example of its rule -/

theorem test_drop_skip : fdView (feed 0xDB (fd 4 .normal true [])) =
    some (some .pending, .normal, true, []) := by decide
theorem test_drop_end : fdView (feed 0xC0 (fd 4 .normal true [])) =
    some (some .pending, .normal, false, []) := by decide
theorem test_end_frame : fdView (feed 0xC0 (fd 4 .normal false [0x01, 0x02])) =
    some (some (.frameReady 2), .normal, false, []) := by decide
theorem test_end_frame_bytes :
    (match feed 0xC0 (fd 2 .normal false [0x01, 0x02]) with
      | .next t => (windowFrame t, frameByteAt t 1, frameByteAt t 2)
      | _ => (none, .refused .windowClosed, .refused .windowClosed)) =
    (some [0x01, 0x02], .byte 0x02, .refused .beyondFrame) := by decide
theorem test_end_empty : fdView (feed 0xC0 (fd 4 .normal false [])) =
    some (some .pending, .normal, false, []) := by decide
theorem test_esc : fdView (feed 0xDB (fd 4 .normal false [0x41])) =
    some (some .pending, .escaped, false, [0x41]) := by decide
theorem test_esc_full : fdView (feed 0xDB (fd 1 .normal false [0x41])) =
    some (some .pending, .escaped, false, [0x41]) := by decide
theorem test_data : fdView (feed 0x01 (fd 4 .normal false [])) =
    some (some .pending, .normal, false, [0x01]) := by decide
theorem test_data_marker : fdView (feed 0xDC (fd 4 .normal false [0x01])) =
    some (some .pending, .normal, false, [0x01, 0xDC]) := by decide
theorem test_data_ovf : fdView (feed 0x03 (fd 2 .normal false [0x01, 0x02])) =
    some (some (.error .overflow), .normal, true, []) := by decide
theorem test_esc_end : fdView (feed 0xDC (fd 4 .escaped false [])) =
    some (some .pending, .normal, false, [0xC0]) := by decide
theorem test_esc_esc : fdView (feed 0xDD (fd 4 .escaped false [0x41])) =
    some (some .pending, .normal, false, [0x41, 0xDB]) := by decide
theorem test_e_ovf : fdView (feed 0xDC (fd 1 .escaped false [0x41])) =
    some (some (.error .overflow), .normal, true, []) := by decide
theorem test_e_invalid : fdView (feed 0x41 (fd 4 .escaped false [0x01, 0x02])) =
    some (some (.error .invalidEscape), .normal, false, []) := by decide
theorem test_e_invalid_full : fdView (feed 0xC0 (fd 2 .escaped false [0x01, 0x02])) =
    some (some (.error .invalidEscape), .normal, false, []) := by decide

theorem test_none : ioView (sample 0x000 (io 0x40 (.normal 0x40))) =
    some (some (.normal 0x40), some .noAction, 0x40, .normal 0x40) := by decide
theorem test_press : ioView (sample 0x106 (io 0x00 (.normal 0x00))) =
    some (some (.normal 0x40), some (.txInput 0x40), 0x40, .normal 0x40) := by decide
theorem test_release : ioView (sample 0x206 (io 0x48 (.normal 0x48))) =
    some (some (.normal 0x08), some (.txInput 0x08), 0x08, .normal 0x08) := by decide
theorem test_hat : ioView (sample 0x30A (io 0x49 (.normal 0x49))) =
    some (some (.normal 0xA9), some (.txInput 0xA9), 0xA9, .normal 0xA9) := by decide
theorem test_hat_centred : ioView (sample 0x300 (io 0xFF (.normal 0xFF))) =
    some (some (.normal 0x1B), some (.txInput 0x1B), 0x1B, .normal 0x1B) := by decide
theorem test_special_quit : ioView (sample 0x400 (io 0x40 (.normal 0x40))) =
    some (some (.special .quit), some .quitReq, 0x40, .special .quit) := by decide
theorem test_special_resetdisplay : ioView (sample 0x401 (io 0x00 (.normal 0x00))) =
    some (some (.special .resetDisplay), some .txResetDisplay, 0x00, .special .resetDisplay) := by decide
theorem test_special_repeated : ioView (sample 0x401 (io 0x01 (.special .resetDisplay))) =
    some (some (.special .resetDisplay), some .noAction, 0x01, .special .resetDisplay) := by decide
theorem test_retransmission : ioView (sample 0x000 (io 0x01 (.special .resetDisplay))) =
    some (some (.normal 0x01), some (.txInput 0x01), 0x01, .normal 0x01) := by decide
theorem test_hotplug : ioView (sample 0x500 (io 0x04 (.normal 0x04))) =
    some (some (.normal 0x04), some .noAction, 0x04, .normal 0x04) := by decide
theorem test_reserved : sample 0x600 (io 0x04 (.normal 0x04)) = .refused .reservedEventKind := by rfl
theorem test_reset :
    (match step (present { rst := true, feedValid := true, feedByte := 0x05 } (fd 4 .escaped false [0x01])) with
      | .next t => some ((t.mode, t.drop, t.len), (t.key, t.last), (t.window, t.out))
      | _ => none) =
    some ((.normal, false, 0), (0x00, .normal 0x00), (none, {})) := by decide
/-- A cell nothing has stored to holds a value after reset, a free one (R22, U1); inside the partial frame
the byte counts, after it again a free value. -/
theorem test_unspecified_cells (i : Nat) :
    bufAt State.reset i = Config.freeByte 0 i ∧
    bufAt (fd 4 .normal false [0x01, 0x02]) 1 = 0x02 ∧
    bufAt (fd 4 .normal false [0x01, 0x02]) 2 = Config.freeByte 0 2 ∧
    bufAt (resetBlock (fd 4 .normal false [0x01, 0x02])) 1 = Config.freeByte 1 1 := ⟨rfl, rfl, rfl, rfl⟩
/-- A step that resets and looks at the frame read port is refused the read. -/
theorem test_reset_with_look :
    (match step (present { rst := true, frameIdx := some 0 } (fd 4 .normal false [0x01])) with
      | .next t => some (t.len, t.out.frameByte)
      | _ => none) = some (0, some (.refused .windowClosed)) := by decide
theorem test_wire :
    Action.wire (inst 4) (.txInput 0x40) = [0x11, 0x40] ∧
    Action.wire (inst 4) .txResetDisplay = [0x22, 0x33] ∧ Action.wire (inst 4) .quitReq = [] ∧
    Action.wire (inst 4) .noAction = [] := by decide
/-- The codes of R56 to R58 and R10. -/
theorem test_codes :
    DecodeResult.code .pending = 0 ∧ DecodeResult.code (.frameReady 3) = 1 ∧
    DecodeResult.code (.error .overflow) = 2 ∧ DecodeResult.code (.error .invalidEscape) = 3 ∧
    Action.code .noAction = 0 ∧ Action.code (.txInput 0x40) = 1 ∧ Action.code .txResetDisplay = 2 ∧
    Action.code .quitReq = 3 ∧ modeCode .normal = 0 ∧ modeCode .escaped = 1 ∧
    DecodeResult.frameLen (.frameReady 3) = some 3 ∧ Action.mask (.txInput 0x40) = some 0x40 := by decide
theorem test_slip_encode :
    slipEncode (inst 4) [0x01, 0xC0, 0xDB] = [0x01, 0xDB, 0xDC, 0xDB, 0xDD, 0xC0] ∧
    slipEncodeFlush (inst 4) [] = [0xC0, 0xC0] := by decide
theorem test_len_width : (inst 1).lenWidth = 1 ∧ (inst 3).lenWidth = 2 ∧ (inst 4).lenWidth = 3 := by decide
/-- A step with both symbols runs both (R45). -/
theorem test_both_ports :
    (match step (present { feedValid := true, feedByte := 0x01, sampleValid := true, ev := 0x106 }
        (fd 4 .normal false [])) with
      | .next t => (t.out.res, t.out.act, t.len, t.key)
      | _ => (none, none, 0, 0)) = (some .pending, some (.txInput 0x40), 1, 0x40) := by decide

/-! ## States that meet the hypotheses of the statements -/

/-- A partial frame of two bytes. -/
def sPartial : State := fd 4 .normal false [0x01, 0x02]
/-- A full buffer. -/
def sFull : State := fd 2 .normal false [0x01, 0x02]
/-- An escape sequence with a full buffer. -/
def sEscFull : State := fd 2 .escaped false [0x01, 0x02]
/-- A drop window. -/
def sDrop : State := fd 4 .normal true []
/-- An open frame window on three bytes. -/
def sWindow : State := { fd 4 .normal false [0x01, 0x02, 0x03] with len := 0, window := some 3 }
/-- `last` is a display reset. -/
def sSpecial : State := io 0x05 (.special .resetDisplay)

theorem inv_sPartial : Inv sPartial :=
  ⟨by decide, by decide, by decide, by decide, by decide, by decide, by decide, fun _ h => by cases h⟩
theorem inv_sFull : Inv sFull :=
  ⟨by decide, by decide, by decide, by decide, by decide, by decide, by decide, fun _ h => by cases h⟩
theorem inv_sEscFull : Inv sEscFull :=
  ⟨by decide, by decide, by decide, by decide, by decide, by decide, by decide, fun _ h => by cases h⟩
theorem inv_sDrop : Inv sDrop :=
  ⟨by decide, by decide, by decide, by decide, by decide, by decide, by decide, fun _ h => by cases h⟩
theorem inv_sWindow : Inv sWindow :=
  ⟨by decide, by decide, by decide, by decide, by decide, by decide, by decide,
    fun n h => by cases h; decide⟩

theorem witness_DecodeOfEncodeIsTheOperation :
    ((inst 4).WellFormed ∧ (Instr.fdEOvf .escEsc).wellFormed (inst 4) = true ∧
      (Instr.fdEOvf .escEsc).stateCondition (inst 4) ⟨false, .escaped, 4, .normal 0⟩ = true) ∧
    ((Instr.fdNData 0xFF).wellFormed (inst 4) = true ∧
      (Instr.fdNData 0xFF).stateCondition (inst 4) ⟨false, .normal, 3, .normal 0⟩ = true) ∧
    ((Instr.edTxinput 0x00).wellFormed (inst 4) = true ∧
      (Instr.edTxinput 0x00).stateCondition (inst 4) ⟨false, .normal, 0, .special .quit⟩ = true) := by
  decide
theorem witness_DecodedOperationIsSelectedAndEncodesBack :
    decode (inst 4) ⟨false, .normal, 4, .normal 0⟩ (.feed8 0x00) = .ok (.fdNDataOvf 0x00) ∧
    decode (inst 4) ⟨true, .normal, 0, .normal 0⟩ (.ev11 0x1FF) = .ok (.itPress .left) := ⟨rfl, rfl⟩
theorem witness_RowsPartitionStatesAndSymbols : (inst 1).WellFormed := by decide
theorem witness_IgnoredEventBitsMakeNoDifference :
    (0x1F8 : EventWord) &&& (decodeEvent 0x100).eventBits = 0x100 &&& (decodeEvent 0x100).eventBits ∧
    (0x0FF : EventWord) &&& (decodeEvent 0x000).eventBits = 0x000 &&& (decodeEvent 0x000).eventBits := by
  decide
theorem witness_EscapedBytesHoldNoTerminator : (inst 1).WellFormed := by decide
theorem witness_LengthWidthIsTheLeastThatHoldsC : (inst 4).capacity < 2 ^ 3 := by decide
theorem witness_DropSkipDiscardsTheByte : sDrop.drop = true ∧ (0xDB : Byte) ≠ sDrop.cfg.endByte := by decide
theorem witness_DropEndClosesTheDropWindow : sDrop.drop = true := by decide
theorem witness_EndFrameReportsTheFrame :
    sFull.drop = false ∧ sFull.mode = .normal ∧ 0 < sFull.len ∧ sFull.buf.stored 1 = some 0x02 := by decide
theorem witness_EndEmptyReportsNoFrame :
    (fd 4 .normal false []).drop = false ∧ (fd 4 .normal false []).mode = .normal ∧
    (fd 4 .normal false []).len = 0 := by decide
theorem witness_EscEntersEscapedMode : sFull.drop = false ∧ sFull.mode = .normal := by decide
theorem witness_DataByteIsAppended :
    (fd 3 .normal false [0x01, 0x02]).drop = false ∧ (fd 3 .normal false [0x01, 0x02]).mode = .normal ∧
    (fd 3 .normal false [0x01, 0x02]).len < (fd 3 .normal false [0x01, 0x02]).cfg.capacity ∧
    (0xDC : Byte) ≠ (inst 3).endByte ∧ (0xDC : Byte) ≠ (inst 3).escByte := by decide
theorem witness_DataByteThatDoesNotFitOverflows :
    sFull.drop = false ∧ sFull.mode = .normal ∧ sFull.len = sFull.cfg.capacity ∧
    (0x03 : Byte) ≠ sFull.cfg.endByte ∧ (0x03 : Byte) ≠ sFull.cfg.escByte := by decide
theorem witness_EscapedEndStoresEnd :
    (fd 1 .escaped false []).drop = false ∧ (fd 1 .escaped false []).mode = .escaped ∧
    (fd 1 .escaped false []).len < (fd 1 .escaped false []).cfg.capacity := by decide
theorem witness_EscapedEscStoresEsc :
    (fd 3 .escaped false [0x01, 0x02]).drop = false ∧ (fd 3 .escaped false [0x01, 0x02]).mode = .escaped ∧
    (fd 3 .escaped false [0x01, 0x02]).len < (fd 3 .escaped false [0x01, 0x02]).cfg.capacity := by decide
theorem witness_EscapedLiteralThatDoesNotFitOverflows :
    sEscFull.drop = false ∧ sEscFull.mode = .escaped ∧ sEscFull.len = sEscFull.cfg.capacity := by decide
theorem witness_OtherByteAfterEscIsInvalid :
    sEscFull.drop = false ∧ sEscFull.mode = .escaped ∧
    (0xC0 : Byte) ≠ sEscFull.cfg.escEnd ∧ (0xC0 : Byte) ≠ sEscFull.cfg.escEsc := by decide
theorem witness_NoneAndHotplugReportTheMask :
    (Instr.itNone = .itNone ∨ Instr.itNone = .itHotplug) ∧
    (Instr.itHotplug = .itNone ∨ Instr.itHotplug = .itHotplug) := by decide
theorem witness_SameMessageGivesNoAction :
    Message.special .resetDisplay = sSpecial.last ∧ Message.normal 0x00 = sDrop.last := by decide
theorem witness_ChangedMaskIsTransmitted :
    Message.normal 0x00 ≠ sSpecial.last ∧ Message.normal 0xFF ≠ sDrop.last := by decide
theorem witness_DisplayResetIsTransmitted :
    Message.special .resetDisplay ≠ (io 0x01 (.normal 0x01)).last ∧
    Message.special .resetDisplay ≠ (io 0x01 (.special .quit)).last := by decide
theorem witness_QuitIsRequested :
    Message.special .quit ≠ sSpecial.last ∧ Message.special .quit ≠ sDrop.last := by decide
theorem witness_OperationsCompleteExactlyWhereSelected :
    Instr.selectedIn sFull.cfg sFull.context .fdNEsc = true ∧
    Instr.selectedIn sFull.cfg sFull.context (.fdNData 0x03) = false := by decide

/-- A state that presents the byte `00`. -/
def sFeeding : State := present (feedPorts 0x00) sPartial
/-- Without and with a look at the frame read port. -/
theorem witness_StepRunsTheDecodedFeed :
    (sFeeding.cfg.WellFormed ∧ (presented sFeeding).rst = false ∧ (presented sFeeding).feedValid = true ∧
      (presented sFeeding).sampleValid = false ∧
      decode sFeeding.cfg sFeeding.context (.feed8 (presented sFeeding).feedByte) = .ok (.fdNData 0x00)) ∧
    (let s := present { feedPorts 0xC0 with frameIdx := some 1 } sFull
     s.cfg.WellFormed ∧ (presented s).rst = false ∧ (presented s).feedValid = true ∧
      (presented s).sampleValid = false ∧
      decode s.cfg s.context (.feed8 (presented s).feedByte) = .ok .fdNEndFrame) :=
  ⟨⟨by decide, by decide, by decide, by decide, rfl⟩, by decide, by decide, by decide, by decide, rfl⟩
theorem witness_StepRunsTheDecodedSample :
    (let s := present { samplePorts 0x106 with frameIdx := some 2 } sWindow
     s.cfg.WellFormed ∧ (presented s).rst = false ∧ (presented s).feedValid = false ∧
      (presented s).sampleValid = true ∧
      decode s.cfg s.context (.ev11 (presented s).ev) = .ok (.itPress .up) ∧
      ∃ t, exec (.itPress .up) (clearOutputs (consume s)) = .next t) ∧
    (let s := present (samplePorts 0x7FF) sFull
     s.cfg.WellFormed ∧ (presented s).rst = false ∧ (presented s).feedValid = false ∧
      (presented s).sampleValid = true ∧
      decode s.cfg s.context (.ev11 (presented s).ev) = .ok (.evReserved true) ∧
      exec (.evReserved true) (clearOutputs (consume s)) = .refused .reservedEventKind) :=
  ⟨⟨by decide, by decide, by decide, by decide, rfl, _, rfl⟩,
    by decide, by decide, by decide, by decide, rfl, rfl⟩

/-- Both symbols at once. -/
def pBoth : PortInput := { feedValid := true, feedByte := 0xC0, sampleValid := true, ev := 0x30A }
theorem witness_ResetPortHasPriority :
    (present { pBoth with rst := true, frameIdx := some 0 } sEscFull).cfg.WellFormed ∧
    (presented (present { pBoth with rst := true, frameIdx := some 0 } sEscFull)).rst = true := by decide
theorem witness_IdleStepChangesNothing :
    (present { frameIdx := some 2 } sWindow).cfg.WellFormed ∧
    (presented (present { frameIdx := some 2 } sWindow)).rst = false ∧
    (presented (present { frameIdx := some 2 } sWindow)).feedValid = false ∧
    (presented (present { frameIdx := some 2 } sWindow)).sampleValid = false := by decide
theorem witness_FeedAndSampleOfOneStepCommute :
    (present pBoth sFull).cfg.WellFormed ∧ (presented (present pBoth sFull)).rst = false ∧
    (presented (present pBoth sFull)).feedValid = true ∧
    (presented (present pBoth sFull)).sampleValid = true := by decide
theorem witness_StepAnswersEveryLegalSymbol :
    (present pBoth sFull).cfg.WellFormed ∧ legalPorts (presented (present pBoth sFull)) = true ∧
    legalPorts { rst := true, sampleValid := true, ev := 0x600 } = true ∧
    legalPorts { ev := 0x700 } = true := by decide
theorem witness_StepRefusesWhatTheSpecRefuses :
    (sFull.cfg.WellFormed ∧ legalPorts (presented (present (samplePorts 0x600) sFull)) = false) ∧
    ¬ (fd 0 .normal false []).cfg.WellFormed := by decide

theorem witness_StepKeepsTheInvariant :
    Inv sFeeding ∧ ∃ t, step sFeeding = .next t ∧ t.len = 3 :=
  ⟨⟨by decide, by decide, by decide, by decide, by decide, by decide, by decide, fun _ h => by cases h⟩,
    _, rfl, rfl⟩
/-- One step each for the four clauses: an append, a completed frame, an error, a reset. -/
theorem witness_LengthAndBufferMoveTogether :
    (∃ t, step sFeeding = .next t ∧ t.len = sFeeding.len + 1 ∧
      t.buf.stored 2 ≠ sFeeding.buf.stored 2) ∧
    (∃ t, feed 0xC0 sFull = .next t ∧ t.len ≠ sFull.len ∧ t.len ≠ sFull.len + 1) ∧
    (∃ t, feed 0x00 sEscFull = .next t ∧ t.len ≠ sEscFull.len ∧ t.len ≠ sEscFull.len + 1) ∧
    (∃ t, step (present { rst := true } sPartial) = .next t ∧ t.len ≠ sPartial.len ∧
      t.len ≠ sPartial.len + 1) :=
  ⟨⟨_, rfl, by decide⟩, ⟨_, rfl, by decide⟩, ⟨_, rfl, by decide⟩, ⟨_, rfl, by decide⟩⟩
theorem witness_ReportedFramesAreWhole :
    Inv (present (feedPorts 0xC0) sFull) ∧
    ∃ t, step (present (feedPorts 0xC0) sFull) = .next t ∧ t.out.res = some (.frameReady 2) :=
  ⟨⟨by decide, by decide, by decide, by decide, by decide, by decide, by decide, fun _ h => by cases h⟩,
    _, rfl, rfl⟩
/-- The three cases: a `SAMPLE` in a window, a `RESET` in one, a `FEED` that reports no frame in one. -/
theorem witness_FrameWindowLastsUntilFeedOrReset :
    (∃ t, step (present (samplePorts 0x106) sWindow) = .next t) ∧
    (∃ t, step (present { rst := true } sWindow) = .next t) ∧
    (∃ t, step (present (feedPorts 0x01) sWindow) = .next t ∧ ∀ n, t.out.res ≠ some (.frameReady n)) :=
  ⟨⟨_, rfl⟩, ⟨_, rfl⟩, _, rfl, fun n h => by cases h⟩
theorem witness_FeedAndResetAloneMoveTheFrameWindow :
    (∃ t, exec .fdNEndFrame sFull = .next t) ∧
    (encode sWindow.cfg (.fdNData 0x01) = .feed8 0x01 ∧ ∃ t, exec (.fdNData 0x01) sWindow = .next t) ∧
    (∃ t, exec .reset sWindow = .next t) ∧ (∃ t, exec .itNone sWindow = .next t) ∧
    (∃ t, exec .edQuit sWindow = .next t) :=
  ⟨⟨_, rfl⟩, ⟨rfl, _, rfl⟩, ⟨_, rfl⟩, ⟨_, rfl⟩, ⟨_, rfl⟩⟩
/-- No window; the last index of one; the first index beyond it. -/
theorem witness_FramePortAnswersInsideTheWindowOnly :
    (Inv sPartial ∧ sPartial.window = none) ∧ Inv sWindow ∧ sWindow.window = some 3 ∧
    frameByteAt sWindow 2 = .byte 0x03 ∧ frameByteAt sWindow 3 = .refused .beyondFrame :=
  ⟨⟨inv_sPartial, by decide⟩, inv_sWindow, by decide, by decide, by decide⟩
theorem witness_FeedIsTotal :
    ({ sFull with key := 0x01, buf := [] } : State) ≠ sFull ∧
    ({ sFull with key := 0x01, buf := [] } : State).len = sFull.len := by decide
theorem witness_FeedNeverReadsTheBuffer : ∃ t, runFeed 0xC0 sFull = .next t := ⟨_, rfl⟩
/-- Both errors. -/
theorem witness_ErrorsDoNotNest :
    (sFull.cfg.WellFormed ∧ ∃ t, runFeed 0x03 sFull = .next t ∧ t.out.res = some (.error .overflow)) ∧
    (∃ t, runFeed 0xDB sEscFull = .next t ∧ t.out.res = some (.error .invalidEscape)) :=
  ⟨⟨by decide, _, rfl, rfl⟩, _, rfl, rfl⟩
theorem witness_DropWindowSwallowsAnyBytes :
    sDrop.cfg.WellFormed ∧ sDrop.drop = true ∧ sDrop.cfg.endByte ∉ [0xDB, 0xDC, (0x00 : Byte)] := by decide
theorem witness_TailAfterInvalidEscapeIsReported :
    sEscFull.cfg.WellFormed ∧ sEscFull.drop = false ∧ sEscFull.mode = .escaped ∧
    (0x00 : Byte) ≠ sEscFull.cfg.escEnd ∧ (0x00 : Byte) ≠ sEscFull.cfg.escEsc ∧
    1 ≤ [(0xC0 : Byte), 0xDB].length ∧ [(0xC0 : Byte), 0xDB].length ≤ sEscFull.cfg.capacity := by decide
/-- A frame of one byte, and one of `C` bytes. -/
theorem witness_FramingRoundTrip :
    (sWindow.cfg.WellFormed ∧ sWindow.drop = false ∧ sWindow.mode = .normal ∧ sWindow.len = 0) ∧
    (1 ≤ [(0xC0 : Byte)].length ∧ [(0xC0 : Byte)].length ≤ sWindow.cfg.capacity) ∧
    (1 ≤ [(0xC0 : Byte), 0xDB, 0xDC, 0xDD].length ∧
      [(0xC0 : Byte), 0xDB, 0xDC, 0xDD].length ≤ sWindow.cfg.capacity) := by decide
/-- A frame of `C + 1` bytes. -/
theorem witness_OverflowContainment :
    (fd 1 .normal false []).cfg.WellFormed ∧ (fd 1 .normal false []).drop = false ∧
    (fd 1 .normal false []).mode = .normal ∧ (fd 1 .normal false []).len = 0 ∧
    (fd 1 .normal false []).cfg.capacity < [(0x01 : Byte), 0xC0].length := by decide
theorem witness_FeedsAndSamplesDoNotInterfere :
    (runSymbols [pBoth, feedPorts 0x01, samplePorts 0x000, { rst := true }] sFull).isSome = true := by
  decide
theorem witness_SampleReportsCurrentTruth :
    legalEvent 0x200 = true ∧ decodeEvent 0x200 ≠ .itSpecialQuit ∧
    decodeEvent 0x200 ≠ .itSpecialResetdisplay ∧ legalEvent 0x400 = true ∧
    (io 0x05 (.normal 0x00)).key = sSpecial.key := by decide
/-- A special event, a press, a release and a hat. -/
theorem witness_SpecialAndNormalExcludeEachOther :
    ((∃ t, runSample 0x400 sFull = .next t) ∧ decodeEvent 0x400 = .itSpecialQuit) ∧
    ((∃ t, runSample 0x401 sFull = .next t) ∧ decodeEvent 0x401 = .itSpecialResetdisplay) ∧
    ((∃ t, runSample 0x107 sFull = .next t) ∧ decodeEvent 0x107 = .itPress .left) ∧
    ((∃ t, runSample 0x200 sFull = .next t) ∧ decodeEvent 0x200 = .itRelease .edit) ∧
    ((∃ t, runSample 0x300 sFull = .next t) ∧ decodeEvent 0x300 = .itHat false false false false) :=
  ⟨⟨⟨_, rfl⟩, rfl⟩, ⟨⟨_, rfl⟩, rfl⟩, ⟨⟨_, rfl⟩, rfl⟩, ⟨⟨_, rfl⟩, rfl⟩, ⟨⟨_, rfl⟩, rfl⟩⟩
/-- A message that repeats `last`, and a mask that is transmitted. -/
theorem witness_LastIsTheMessageOfEverySample :
    (∃ t, runSample 0x401 sSpecial = .next t ∧ t.out.act = some .noAction) ∧
    (∃ t, runSample 0x000 sSpecial = .next t ∧ t.out.act = some (.txInput 0x05)) :=
  ⟨⟨_, rfl, by decide⟩, ⟨_, rfl, by decide⟩⟩
theorem witness_MaskIsRetransmittedAfterASpecial :
    sSpecial.last = .special .resetDisplay ∧ legalEvent 0x000 = true ∧
    decodeEvent 0x000 ≠ .itSpecialQuit ∧ decodeEvent 0x000 ≠ .itSpecialResetdisplay := by decide
theorem witness_KeyBitsFollowTheEvents :
    sFull.cfg.WellFormed ∧
    ∀ ev ∈ ([0x102, 0x304, 0x202, 0x401, 0x500] : List EventWord), legalEvent ev = true := by decide
theorem witness_TranslatorLaws :
    (∃ t, andThen (exec (.itPress .up) sFull) (exec (.itRelease .up)) = .next t) ∧
    Control.up ≠ Control.edit :=
  ⟨⟨_, rfl⟩, by decide⟩

end Sys2Proof.Machine.Tests
end

section
/-! SUPPORT. The bits of `key`: what each update of the held-control mask (`30_encoding.md` R60, R61;
`41_input_debouncer.md` R87 to R89) does to the bit of one control, and what a run of events makes of it
(`10_state.md` R12). -/

namespace Sys2Proof.Machine

/-! ## The bits of the masks -/

theorem controlMask_eq_twoPow (c : Control) : controlMask c = BitVec.twoPow 8 c.index.toNat := rfl

theorem index_toNat_lt (c : Control) : c.index.toNat < 8 := c.index.isLt

theorem index_toNat_inj {c d : Control} : c.index.toNat = d.index.toNat ↔ c = d :=
  ⟨fun h => Control.index_injective (BitVec.eq_of_toNat_eq h), fun h => h ▸ rfl⟩

/-- The mask of a control has the bit of that control alone (R60). -/
theorem getLsbD_controlMask (c d : Control) :
    (controlMask c).getLsbD d.index.toNat = decide (c = d) := by
  simp only [controlMask_eq_twoPow, BitVec.getLsbD_twoPow, index_toNat_lt, index_toNat_inj,
    decide_true, Bool.true_and]

/-- A flag at bit `i` is that bit and no other. -/
theorem getLsbD_flagAt (b : Bool) (i j : Nat) :
    (flagAt b i).getLsbD j = (b && (decide (i < 8) && decide (i = j))) := by
  cases b with
  | false => simp [flagAt]
  | true => exact BitVec.getLsbD_twoPow i j

/-- The flag a `HAT` event carries for a control; none if the control is no direction (R61). -/
def hatFlag (l u d r : Bool) : Control → Option Bool
  | .left => some l
  | .up => some u
  | .down => some d
  | .right => some r
  | .select | .start | .option | .edit => none

/-- `DIR_REGION` holds the controls a `HAT` carries a flag for, whatever the flags (R61). -/
theorem getLsbD_dirRegion (l u d r : Bool) (c : Control) :
    dirRegion.getLsbD c.index.toNat = (hatFlag l u d r c).isSome := by
  cases c <;> rfl

theorem getLsbD_hatBits (l u d r : Bool) (c : Control) :
    (hatBits l u d r).getLsbD c.index.toNat = (hatFlag l u d r c).getD false := by
  cases c <;> simp [hatBits, hatFlag, Control.index, getLsbD_flagAt, -BitVec.getLsbD_eq_getElem]

/-! ## The bits of the updates of `key` -/

theorem getLsbD_pressKey (c d : Control) (key : Byte) :
    (pressKey d key).getLsbD c.index.toNat = if d = c then true else key.getLsbD c.index.toNat := by
  rw [pressKey, BitVec.getLsbD_or, getLsbD_controlMask]
  split <;> simp [*]

theorem getLsbD_releaseKey (c d : Control) (key : Byte) :
    (releaseKey d key).getLsbD c.index.toNat =
      if d = c then false else key.getLsbD c.index.toNat := by
  rw [releaseKey, BitVec.getLsbD_and, BitVec.getLsbD_not, getLsbD_controlMask]
  split <;> simp [*, index_toNat_lt]

theorem getLsbD_hatKey (l u d r : Bool) (c : Control) (key : Byte) :
    (hatKey l u d r key).getLsbD c.index.toNat =
      (hatFlag l u d r c).getD (key.getLsbD c.index.toNat) := by
  rw [hatKey, BitVec.getLsbD_or, BitVec.getLsbD_and, BitVec.getLsbD_not,
    getLsbD_dirRegion l u d r, getLsbD_hatBits]
  cases hatFlag l u d r c <;> simp [index_toNat_lt]

/-! ## One event, and a run of events -/

theorem heldAfter_cons (c : Control) (ev : EventWord) (evs : List EventWord) (held : Bool) :
    heldAfter c (ev :: evs) held = heldAfter c evs (heldAfter c [ev] held) := rfl

/-- One event makes of the bit of a control what R12 says of that event. -/
theorem getLsbD_keyAfter (ev : EventWord) (c : Control) (key : Byte) :
    (keyAfter (decodeEvent ev) key).getLsbD c.index.toNat =
      heldAfter c [ev] (key.getLsbD c.index.toNat) := by
  simp only [heldAfter]
  cases decodeEvent ev with
  | itPress d => exact getLsbD_pressKey c d key
  | itRelease d => exact getLsbD_releaseKey c d key
  | itHat l u d r => exact (getLsbD_hatKey l u d r c key).trans (by cases c <;> rfl)
  | _ => rfl

/-- Settles O59, by induction on the events: a legal one is answered by a `SAMPLE` whose only effect on
`key` is `keyAfter`, and that agrees with `heldAfter` on every bit. -/
theorem keyBitsFollowTheEvents : Obligations.KeyBitsFollowTheEvents := by
  intro evs s c hc hlegal
  induction evs generalizing s with
  | nil => exact ⟨[], s, rfl, rfl⟩
  | cons ev evs ih =>
    obtain ⟨hev, hevs⟩ := List.forall_mem_cons.1 hlegal
    have hsample := runSample_eq (clearOutputs s) ((legalEvent_iff ev).1 hev)
    obtain ⟨os, t, hrun, hkey⟩ := ih (sampled (decodeEvent ev) (clearOutputs s)) hc hevs
    refine ⟨(sampled (decodeEvent ev) (clearOutputs s)).out :: os, t, ?_, ?_⟩
    · rw [List.map_cons, runSymbols_sample_cons _ hc hsample, hrun]
      rfl
    · rw [hkey, sampled_key, clearOutputs_key, getLsbD_keyAfter, ← heldAfter_cons]

end Sys2Proof.Machine
end

section
/-! SUPPORT. The encoding of controls and events (`30_encoding.md`): the mask of each control (R60) and the
refusal of the reserved event kinds (R62). -/

namespace Sys2Proof.Machine

/-- Settles O8: the mask is the shift by its definition, and the table of R60 is sixteen closed facts,
eight indices and the eight masks they shift to. -/
theorem controlMasksFollowTheBitIndices : Obligations.ControlMasksFollowTheBitIndices := by
  refine ⟨fun c => controlMask_eq_twoPow c, ?_⟩
  decide

/-- Settles O26: the operation a reserved kind dispatches to reads neither the state nor the kind. -/
theorem reservedKindsAreRefused : Obligations.ReservedKindsAreRefused := by
  intro s kind7
  change execEvReserved kind7 s = .refused .reservedEventKind
  rfl

end Sys2Proof.Machine
end

section
/-! SUPPORT. The operations of the frame decoder in `Normal` and `Escaped` mode (`40_framer.md`): where R64
selects each, what every `FEED` leaves unchanged, and what each operation does. -/

namespace Sys2Proof.Machine

/-! ## Where R64 selects an operation: its row, both condition columns -/

section
variable {cfg : Config} {c : Context}

theorem selectedIn_fdNEndFrame : Instr.fdNEndFrame.selectedIn cfg c = true ↔
    c.drop = false ∧ c.mode = .normal ∧ 0 < c.len := by
  simp [Instr.selectedIn, Instr.wellFormed, Instr.stateCondition, and_assoc]

theorem selectedIn_fdNEndEmpty : Instr.fdNEndEmpty.selectedIn cfg c = true ↔
    c.drop = false ∧ c.mode = .normal ∧ c.len = 0 := by
  simp [Instr.selectedIn, Instr.wellFormed, Instr.stateCondition, and_assoc]

theorem selectedIn_fdNEsc : Instr.fdNEsc.selectedIn cfg c = true ↔
    c.drop = false ∧ c.mode = .normal := by
  simp [Instr.selectedIn, Instr.wellFormed, Instr.stateCondition]

theorem selectedIn_fdNData {b : Byte} : (Instr.fdNData b).selectedIn cfg c = true ↔
    (b ≠ cfg.endByte ∧ b ≠ cfg.escByte) ∧
      c.drop = false ∧ c.mode = .normal ∧ c.len < cfg.capacity := by
  simp [Instr.selectedIn, Instr.wellFormed, Instr.stateCondition, and_assoc]

theorem selectedIn_fdNDataOvf {b : Byte} : (Instr.fdNDataOvf b).selectedIn cfg c = true ↔
    (b ≠ cfg.endByte ∧ b ≠ cfg.escByte) ∧
      c.drop = false ∧ c.mode = .normal ∧ cfg.capacity ≤ c.len := by
  simp [Instr.selectedIn, Instr.wellFormed, Instr.stateCondition, and_assoc]

theorem selectedIn_fdEEscEnd : Instr.fdEEscEnd.selectedIn cfg c = true ↔
    c.drop = false ∧ c.mode = .escaped ∧ c.len < cfg.capacity := by
  simp [Instr.selectedIn, Instr.wellFormed, Instr.stateCondition, and_assoc]

theorem selectedIn_fdEEscEsc : Instr.fdEEscEsc.selectedIn cfg c = true ↔
    c.drop = false ∧ c.mode = .escaped ∧ c.len < cfg.capacity := by
  simp [Instr.selectedIn, Instr.wellFormed, Instr.stateCondition, and_assoc]

theorem selectedIn_fdEInvalid {b : Byte} : (Instr.fdEInvalid b).selectedIn cfg c = true ↔
    (b ≠ cfg.escEnd ∧ b ≠ cfg.escEsc) ∧ c.drop = false ∧ c.mode = .escaped := by
  simp [Instr.selectedIn, Instr.wellFormed, Instr.stateCondition, and_assoc]

end

/-! ## What an operation of `FD` does -/

/-- An operation whose symbol is a stream byte keeps what no `FEED` touches (R7, R65). -/
theorem feedFrame_nextState {cfg : Config} {i : Instr} {b : Byte} (s : State)
    (he : encode cfg i = .feed8 b) : FeedFrame s (nextState i s) := by
  cases i with
  | fdDropEnd | fdDropSkip | fdNEndFrame | fdNEndEmpty | fdNEsc | fdNData | fdNDataOvf
  | fdEEscEnd | fdEEscEsc | fdEOvf | fdEInvalid =>
    exact ⟨⟨rfl, rfl⟩, ⟨rfl, rfl⟩, rfl, rfl, rfl, rfl⟩
  | _ => cases he

/-- Where R64 selects an operation of `FD`, it gives its next state and keeps the frame of a `FEED`. -/
theorem exec_feed_of_selected {i : Instr} {b : Byte} {s : State} (he : encode s.cfg i = .feed8 b)
    (h : i.selectedIn s.cfg s.context = true) :
    exec i s = .next (nextState i s) ∧ FeedFrame s (nextState i s) := by
  have hr : ∀ k, i ≠ .evReserved k := by
    rintro k rfl
    cases he
  exact ⟨exec_of_selected hr h, feedFrame_nextState s he⟩

/-- The port shows every byte of the partial frame once `END` has completed it (R36, R70). -/
theorem frameByteAt_completeFrame {s : State} {i : Nat} (h : i < s.len) :
    frameByteAt (completeFrame s) i = .byte (s.buf.read i) :=
  frameByteAt_inside (completeFrame_window s) h

/-- Appending a byte stores it at index `len` and nowhere else (R71, R73, R74). -/
theorem stored_append (v : Byte) (s : State) :
    (append v s).buf.stored s.len = some v ∧ SameBufferExcept s.len s (append v s) :=
  ⟨Buffer.stored_write_same .., fun _ ha => Buffer.stored_write_other _ v ha⟩

/-! ## `Normal` mode -/

/-- Settles O12: the window opens on the `len` bytes of the partial frame, whose contents R10 promises. -/
theorem endFrameReportsTheFrame : Obligations.EndFrameReportsTheFrame := by
  intro s hd hm hl
  obtain ⟨hexec, hframe⟩ :=
    exec_feed_of_selected (s := s) rfl (selectedIn_fdNEndFrame.2 ⟨hd, hm, hl⟩)
  refine ⟨completeFrame s, hexec, rfl, fun i hi => ?contents, fun i b hi hb => ?stored,
    windowFrame_completeFrame s, hm, hd, rfl, fun _ => rfl, hframe⟩
  case contents => rw [frameByteAt_completeFrame hi, bufAt_partial hi]
  case stored => rw [frameByteAt_completeFrame hi, Buffer.read_of_stored hb]

/-- Settles O13: the operation only answers `Pending`. -/
theorem endEmptyReportsNoFrame : Obligations.EndEmptyReportsNoFrame := by
  intro s hd hm hl
  obtain ⟨hexec, hframe⟩ :=
    exec_feed_of_selected (s := s) rfl (selectedIn_fdNEndEmpty.2 ⟨hd, hm, hl⟩)
  exact ⟨_, hexec, rfl, hm, hd, hl, fun _ => rfl, hframe⟩

/-- Settles O14: the operation sets `mode` and answers `Pending`; its row has no condition on `len`. -/
theorem escEntersEscapedMode : Obligations.EscEntersEscapedMode := by
  intro s hd hm
  obtain ⟨hexec, hframe⟩ := exec_feed_of_selected (s := s) rfl (selectedIn_fdNEsc.2 ⟨hd, hm⟩)
  exact ⟨_, hexec, rfl, rfl, hd, rfl, fun _ => rfl, hframe⟩

/-- Settles O15: the operation appends its byte and keeps `mode`. -/
theorem dataByteIsAppended : Obligations.DataByteIsAppended := by
  intro s b hd hm hl hend hesc
  obtain ⟨hexec, hframe⟩ :=
    exec_feed_of_selected (s := s) rfl (selectedIn_fdNData.2 ⟨⟨hend, hesc⟩, hd, hm, hl⟩)
  obtain ⟨hstored, hother⟩ := stored_append b s
  exact ⟨_, hexec, rfl, hstored, hother, hm, hd, rfl, hframe⟩

/-- Settles O16: at `len = C` the byte is not below the capacity, and the operation raises Overflow. -/
theorem dataByteThatDoesNotFitOverflows : Obligations.DataByteThatDoesNotFitOverflows := by
  intro s b hd hm hl hend hesc
  obtain ⟨hexec, hframe⟩ :=
    exec_feed_of_selected (s := s) rfl (selectedIn_fdNDataOvf.2 ⟨⟨hend, hesc⟩, hd, hm, hl.ge⟩)
  exact ⟨_, hexec, rfl, rfl, rfl, rfl, fun _ => rfl, hframe⟩

/-! ## `Escaped` mode -/

/-- Settles O17: the operation appends the literal of its marker, which is `END`. -/
theorem escapedEndStoresEnd : Obligations.EscapedEndStoresEnd := by
  intro s hd hm hl
  obtain ⟨hexec, hframe⟩ :=
    exec_feed_of_selected (s := s) rfl (selectedIn_fdEEscEnd.2 ⟨hd, hm, hl⟩)
  obtain ⟨hstored, hother⟩ := stored_append s.cfg.endByte s
  exact ⟨_, hexec, rfl, hstored, hother, rfl, hd, rfl, hframe⟩

/-- Settles O18: the operation appends the literal of its marker, which is `ESC`. -/
theorem escapedEscStoresEsc : Obligations.EscapedEscStoresEsc := by
  intro s hd hm hl
  obtain ⟨hexec, hframe⟩ :=
    exec_feed_of_selected (s := s) rfl (selectedIn_fdEEscEsc.2 ⟨hd, hm, hl⟩)
  obtain ⟨hstored, hother⟩ := stored_append s.cfg.escByte s
  exact ⟨_, hexec, rfl, hstored, hother, rfl, hd, rfl, hframe⟩

/-- Settles O20: InvalidEscape leaves `drop` as it was, which is 0; its row has no condition on `len`. -/
theorem otherByteAfterEscIsInvalid : Obligations.OtherByteAfterEscIsInvalid := by
  intro s b hd hm hend hesc
  obtain ⟨hexec, hframe⟩ :=
    exec_feed_of_selected (s := s) rfl (selectedIn_fdEInvalid.2 ⟨⟨hend, hesc⟩, hd, hm⟩)
  exact ⟨_, hexec, rfl, rfl, hd, rfl, fun _ => rfl, hframe⟩

end Sys2Proof.Machine
end

section
/-! SUPPORT. The operations of the input translator (`41_input_debouncer.md`): what each reports and keeps,
and the message of a `SAMPLE` of any legal event. -/

namespace Sys2Proof.Machine

/-! ## What an operation of `IT` does -/

/-- The first half of a `SAMPLE` writes `key` and `msg` alone (R7, R85). -/
theorem translateFrame_translated (i : Instr) (s : State) : TranslateFrame s (translated i s) :=
  ⟨⟨rfl, rfl, rfl, rfl, rfl, fun _ => rfl⟩, ⟨rfl, rfl⟩, rfl, rfl, rfl, rfl⟩

/-- An operation whose symbol is an event of a legal kind translates it and keeps the frame of `IT`. -/
theorem exec_translates {i : Instr} {w : EventWord} {s : State} (he : encode s.cfg i = .ev11 w)
    (hr : ∀ k, i ≠ .evReserved k) :
    exec i s = .next (translated i s) ∧ TranslateFrame s (translated i s) := by
  refine ⟨?_, translateFrame_translated i s⟩
  cases i with
  | itNone | itPress | itRelease | itHat | itSpecialQuit | itSpecialResetdisplay | itHotplug => rfl
  | evReserved k => exact absurd rfl (hr k)
  | _ => cases he

/-- An operation that is not `SPECIAL` reports the mask it leaves in `key` (R85). -/
theorem messageOf_eq_normal {i : Instr} (key : Byte) (hq : i ≠ .itSpecialQuit)
    (hd : i ≠ .itSpecialResetdisplay) : messageOf i key = .normal (keyAfter i key) := by
  cases i with
  | itSpecialQuit => exact absurd rfl hq
  | itSpecialResetdisplay => exact absurd rfl hd
  | _ => rfl

/-! ## The bit of one control -/

/-- The indices of the controls are all the bit indices of a mask (R60). -/
theorem exists_index_toNat_eq {i : Nat} (hi : i < 8) : ∃ c : Control, c.index.toNat = i :=
  ⟨.ofIndex (BitVec.ofNat 3 i), by
    rw [Control.index_ofIndex, BitVec.toNat_ofNat, Nat.mod_eq_of_lt hi]⟩

/-- Masks that agree on every control but `c` agree on every bit but that of `c`. -/
theorem getLsbD_eq_of_other_controls {c : Control} {k k' : Byte}
    (h : ∀ d, c ≠ d → k'.getLsbD d.index.toNat = k.getLsbD d.index.toNat) (i : Nat)
    (hi : i ≠ c.index.toNat) : k'.getLsbD i = k.getLsbD i := by
  rcases Nat.lt_or_ge i 8 with h8 | h8
  · obtain ⟨d, rfl⟩ := exists_index_toNat_eq h8
    exact h d fun hcd => hi (by rw [hcd])
  · rw [BitVec.getLsbD_of_ge k' i h8, BitVec.getLsbD_of_ge k i h8]

/-- Settles O22: the bit laws of `pressKey`, at its own control and at every other. -/
theorem pressSetsItsBit : Obligations.PressSetsItsBit := by
  intro s c
  obtain ⟨hexec, hframe⟩ := exec_translates (i := .itPress c) (s := s) rfl nofun
  have hown : (pressKey c s.key).getLsbD c.index.toNat = true := by
    rw [getLsbD_pressKey, if_pos rfl]
  have hother : ∀ d, c ≠ d →
      (pressKey c s.key).getLsbD d.index.toNat = s.key.getLsbD d.index.toNat := fun d hd => by
    rw [getLsbD_pressKey, if_neg hd]
  exact ⟨_, hexec, rfl, hown, getLsbD_eq_of_other_controls hother, rfl, hframe⟩

/-- Settles O23: the bit laws of `releaseKey`, at its own control and at every other. -/
theorem releaseClearsItsBit : Obligations.ReleaseClearsItsBit := by
  intro s c
  obtain ⟨hexec, hframe⟩ := exec_translates (i := .itRelease c) (s := s) rfl nofun
  have hown : (releaseKey c s.key).getLsbD c.index.toNat = false := by
    rw [getLsbD_releaseKey, if_pos rfl]
  have hother : ∀ d, c ≠ d →
      (releaseKey c s.key).getLsbD d.index.toNat = s.key.getLsbD d.index.toNat := fun d hd => by
    rw [getLsbD_releaseKey, if_neg hd]
  exact ⟨_, hexec, rfl, hown, getLsbD_eq_of_other_controls hother, rfl, hframe⟩

/-- Settles O25: `messageOf` gives each `SPECIAL` event its code, and `keyAfter` leaves `key`. -/
theorem specialEventsGiveSpecialMessages : Obligations.SpecialEventsGiveSpecialMessages := by
  intro s
  constructor
  · obtain ⟨hexec, hframe⟩ := exec_translates (i := .itSpecialQuit) (s := s) rfl nofun
    exact ⟨_, hexec, rfl, rfl, hframe⟩
  · obtain ⟨hexec, hframe⟩ := exec_translates (i := .itSpecialResetdisplay) (s := s) rfl nofun
    exact ⟨_, hexec, rfl, rfl, hframe⟩

/-! ## The message of a `SAMPLE` -/

/-- Settles O55: a `SAMPLE` of a legal event is answered from every state, and its message and its new
`key` are functions of the event and the old `key`. -/
theorem sampleReportsCurrentTruth : Obligations.SampleReportsCurrentTruth := by
  intro s ev hlegal
  have hrun := fun u => runSample_eq (ev := ev) u ((legalEvent_iff ev).1 hlegal)
  refine ⟨_, _, hrun s, sampled_out_msg .., messageOf_eq_normal s.key, fun s' hkey => ?_⟩
  refine ⟨_, hrun s', ?_, ?_⟩
  · rw [sampled_out_msg, hkey]
  · rw [sampled_key, sampled_key, hkey]

/-- Settles O56, by the operation the event selects: `keyAfter` of a `SPECIAL` is the old `key`, and the
message of a `PRESS`, a `RELEASE` or a `HAT` is the `Normal` of its mask. -/
theorem specialAndNormalExcludeEachOther : Obligations.SpecialAndNormalExcludeEachOther := by
  intro s t ev hrun
  obtain ⟨-, rfl⟩ := runSample_next hrun
  rw [sampled_key, sampled_out_msg]
  constructor
  · rintro (hi | hi) <;> rw [hi]
    · exact ⟨rfl, .quit, rfl⟩
    · exact ⟨rfl, .resetDisplay, rfl⟩
  · rintro (⟨c, hi⟩ | ⟨c, hi⟩ | ⟨l, u, d, r, hi⟩) <;> rw [hi]
    · exact ⟨pressKey c s.key, rfl⟩
    · exact ⟨releaseKey c s.key, rfl⟩
    · exact ⟨hatKey l u d r s.key, rfl⟩

end Sys2Proof.Machine
end

section
/-! SUPPORT. The operations of the edge detector (`42_edge_detector.md`): where R64 selects each, what the
second half of a `SAMPLE` leaves unchanged, and what each operation does. -/

namespace Sys2Proof.Machine

/-! ## Where R64 selects an operation: a message is compared whole with `last` (R101) -/

section
variable {cfg : Config} {c : Context}

theorem selectedIn_edSame {msg : Message} :
    (Instr.edSame msg).selectedIn cfg c = true ↔ msg = c.last := by
  simp [Instr.selectedIn, Instr.wellFormed, Instr.stateCondition]

theorem selectedIn_edTxinput {m : Byte} :
    (Instr.edTxinput m).selectedIn cfg c = true ↔ Message.normal m ≠ c.last := by
  simp [Instr.selectedIn, Instr.wellFormed, Instr.stateCondition]

theorem selectedIn_edTxreset :
    Instr.edTxreset.selectedIn cfg c = true ↔ Message.special .resetDisplay ≠ c.last := by
  simp [Instr.selectedIn, Instr.wellFormed, Instr.stateCondition]

theorem selectedIn_edQuit :
    Instr.edQuit.selectedIn cfg c = true ↔ Message.special .quit ≠ c.last := by
  simp [Instr.selectedIn, Instr.wellFormed, Instr.stateCondition]

end

/-! ## What an operation of `ED` does -/

/-- An operation whose symbol is a message writes `last` and `act` alone (R7, R106). -/
theorem edgeFrame_nextState {cfg : Config} {i : Instr} {w : MessageWord} (s : State)
    (he : encode cfg i = .msg9 w) : EdgeFrame s (nextState i s) := by
  cases i with
  | edSame | edTxinput | edTxreset | edQuit =>
    exact ⟨⟨rfl, rfl, rfl, rfl, rfl, fun _ => rfl⟩, ⟨rfl, rfl⟩, rfl, rfl, rfl, rfl⟩
  | _ => cases he

/-- Where R64 selects an operation of `ED`, it gives its next state and keeps the frame of `ED`. -/
theorem exec_edge_of_selected {i : Instr} {w : MessageWord} {s : State} (he : encode s.cfg i = .msg9 w)
    (h : i.selectedIn s.cfg s.context = true) :
    exec i s = .next (nextState i s) ∧ EdgeFrame s (nextState i s) := by
  have hr : ∀ k, i ≠ .evReserved k := by
    rintro k rfl
    cases he
  exact ⟨exec_of_selected hr h, edgeFrame_nextState s he⟩

/-- Settles O27: the operation answers through `act`, which leaves `last`; its row asks only that the
message is `last`, of either kind. -/
theorem sameMessageGivesNoAction : Obligations.SameMessageGivesNoAction := by
  intro s msg hsame
  obtain ⟨hexec, hframe⟩ := exec_edge_of_selected (s := s) rfl (selectedIn_edSame.2 hsame)
  exact ⟨_, hexec, act_out_act .., act_last .., hframe⟩

/-- Settles O28: the operation acts with the whole mask and remembers its message. -/
theorem changedMaskIsTransmitted : Obligations.ChangedMaskIsTransmitted := by
  intro s m hdiff
  obtain ⟨hexec, hframe⟩ := exec_edge_of_selected (s := s) rfl (selectedIn_edTxinput.2 hdiff)
  exact ⟨_, hexec, actOn_out_act .., rfl, rfl, actOn_last .., hframe⟩

/-- Settles O29: the operation acts with the display reset, whose wire message is the tag pair of R59. -/
theorem displayResetIsTransmitted : Obligations.DisplayResetIsTransmitted := by
  intro s hdiff
  obtain ⟨hexec, hframe⟩ := exec_edge_of_selected (s := s) rfl (selectedIn_edTxreset.2 hdiff)
  exact ⟨_, hexec, actOn_out_act .., rfl, actOn_last .., hframe⟩

/-- Settles O30: the operation acts with the quit request, which has no wire message (R59). -/
theorem quitIsRequested : Obligations.QuitIsRequested := by
  intro s hdiff
  obtain ⟨hexec, hframe⟩ := exec_edge_of_selected (s := s) rfl (selectedIn_edQuit.2 hdiff)
  exact ⟨_, hexec, actOn_out_act .., rfl, actOn_last .., hframe⟩

end Sys2Proof.Machine
end

section
/-! SUPPORT. Encoding and decoding (`30_encoding.md`): the round trip of words and operations (R64), the bits
an event kind uses (R55), messages (R56), the stream encoding (R63) and `LEN_W` (R15). -/

namespace Sys2Proof.Machine

/-! ## From an operation to its word and back -/

/-- The word of an operation decodes to it where R64 selects it: one lemma per row. -/
theorem decode_encode {cfg : Config} {c : Context} {i : Instr} (hc : cfg.WellFormed)
    (h : i.selectedIn cfg c = true) : decode cfg c (encode cfg i) = .ok i := by
  suffices hi : Laws.RoundTrip.Statement i from hi cfg c hc h
  cases i with
  | fdDropEnd => exact Laws.RoundTrip.fdDropEnd
  | fdDropSkip b => exact Laws.RoundTrip.fdDropSkip b
  | fdNEndFrame => exact Laws.RoundTrip.fdNEndFrame
  | fdNEndEmpty => exact Laws.RoundTrip.fdNEndEmpty
  | fdNEsc => exact Laws.RoundTrip.fdNEsc
  | fdNData b => exact Laws.RoundTrip.fdNData b
  | fdNDataOvf b => exact Laws.RoundTrip.fdNDataOvf b
  | fdEEscEnd => exact Laws.RoundTrip.fdEEscEnd
  | fdEEscEsc => exact Laws.RoundTrip.fdEEscEsc
  | fdEOvf marker => exact Laws.RoundTrip.fdEOvf marker
  | fdEInvalid b => exact Laws.RoundTrip.fdEInvalid b
  | itNone => exact Laws.RoundTrip.itNone
  | itPress c => exact Laws.RoundTrip.itPress c
  | itRelease c => exact Laws.RoundTrip.itRelease c
  | itHat l u d r => exact Laws.RoundTrip.itHat l u d r
  | itSpecialQuit => exact Laws.RoundTrip.itSpecialQuit
  | itSpecialResetdisplay => exact Laws.RoundTrip.itSpecialResetdisplay
  | itHotplug => exact Laws.RoundTrip.itHotplug
  | evReserved kind7 => exact Laws.RoundTrip.evReserved kind7
  | edSame msg => exact Laws.RoundTrip.edSame msg
  | edTxinput m => exact Laws.RoundTrip.edTxinput m
  | edTxreset => exact Laws.RoundTrip.edTxreset
  | edQuit => exact Laws.RoundTrip.edQuit
  | reset => exact Laws.RoundTrip.reset

/-- Settles O1: the two condition columns of R64 together are selection. -/
theorem decodeOfEncodeIsTheOperation : Obligations.DecodeOfEncodeIsTheOperation := by
  intro cfg c i hc hwf hcond
  exact decode_encode hc (Bool.and_eq_true_iff.2 ⟨hwf, hcond⟩)

/-- Settles O3: the row is the one the classifier answers, and any other row with that word decodes from it
too. -/
theorem rowsPartitionStatesAndSymbols : Obligations.RowsPartitionStatesAndSymbols := by
  intro cfg hc
  constructor
  · intro c b
    refine ⟨decodeFeed cfg c b, ⟨encode_decodeFeed cfg c b, decodeFeed_selectedIn cfg c b⟩, ?_⟩
    intro j hj hsel
    have hdec := decode_encode hc hsel
    rw [hj] at hdec
    exact (Except.ok.inj hdec).symm
  · intro c msg
    refine ⟨decodeMessage c.last msg,
      ⟨encode_decodeMessage cfg c.last msg, decodeMessage_selectedIn cfg c msg⟩, ?_⟩
    intro j hj hsel
    have hdec := decode_encode hc hsel
    rw [hj, decode, Message.ofWord_encode] at hdec
    exact (Except.ok.inj hdec).symm

/-! ## Messages -/

/-- A message word is its tag bit and its payload (R56). -/
theorem tag_append_payload {w : MessageWord} {tag : BitVec 1} (h : tag.getLsbD 0 = w.getLsbD 8) :
    tag ++ w.extractLsb' 0 8 = w := by
  have htag : w.extractLsb' 8 1 = tag := by
    refine BitVec.eq_of_getLsbD_eq fun i hi => ?_
    obtain rfl : i = 0 := by omega
    simpa [-BitVec.getLsbD_eq_getElem] using h.symm
  rw [← htag]
  exact (BitVec.extractLsb'_append_extractLsb'_eq_extractLsb' (start₁ := 0) rfl).trans
    BitVec.extractLsb'_eq_self

/-- A word that is read as a message is that message's word (R56). -/
theorem encode_of_ofWord {w : MessageWord} {msg : Message} (h : Message.ofWord w = some msg) :
    msg.encode = w := by
  simp only [Message.ofWord] at h
  split at h
  case isTrue htag =>
    have hw := tag_append_payload (w := w) (tag := 1) htag.symm
    split at h
    case isTrue hp => cases h; rwa [hp] at hw
    case isFalse =>
      split at h
      case isTrue hp => cases h; rwa [hp] at hw
      case isFalse => cases h
  case isFalse htag =>
    cases h
    exact tag_append_payload (tag := 0) (Bool.eq_false_iff.2 htag).symm

/-- Settles O6: the word is read back, so equal words are words of equal messages (R56). -/
theorem messageEncodingIsInjective : Obligations.MessageEncodingIsInjective := by
  intro a b
  exact ⟨⟨Message.encode_injective, congrArg Message.encode⟩, Message.ofWord_encode a⟩

/-! ## Event words -/

theorem getLsbD_eventWord (k : BitVec 3) (a : Byte) (i : Nat) :
    (eventWord k a).getLsbD i = if i < 8 then a.getLsbD i else k.getLsbD (i - 8) :=
  BitVec.getLsbD_append (x := k) (y := a)

/-- An event word is its kind and its argument (R55). -/
theorem eventWord_kind_argument (ev : EventWord) :
    eventWord (ev.extractLsb' 8 3) (ev.extractLsb' 0 8) = ev :=
  (BitVec.extractLsb'_append_extractLsb'_eq_extractLsb' (x := ev) (start₂ := 8) (len₂ := 3)
    (start₁ := 0) (len₁ := 8) rfl).trans (BitVec.extractLsb'_eq_self (x := ev))

/-- A mask that holds the kind bits keeps the kind and masks the argument. -/
theorem and_eventWord_seven (ev : EventWord) (m : Byte) :
    ev &&& eventWord 7 m = eventWord (ev.extractLsb' 8 3) (ev.extractLsb' 0 8 &&& m) := by
  have hand : ∀ (k : BitVec 3) (a : Byte),
      eventWord k a &&& eventWord 7 m = eventWord (k &&& 7) (a &&& m) := fun k a => by
    refine BitVec.eq_of_getLsbD_eq fun i _ => ?_
    simp only [BitVec.getLsbD_and, getLsbD_eventWord]
    split <;> rfl
  calc ev &&& eventWord 7 m
      = eventWord (ev.extractLsb' 8 3) (ev.extractLsb' 0 8) &&& eventWord 7 m := by
        rw [eventWord_kind_argument]
    _ = eventWord (ev.extractLsb' 8 3 &&& 7) (ev.extractLsb' 0 8 &&& m) := hand ..
    _ = eventWord (ev.extractLsb' 8 3) (ev.extractLsb' 0 8 &&& m) :=
        congrArg (eventWord · _) BitVec.and_allOnes

/-- The argument bits an event kind uses (R55). -/
def usedArgument (kind : BitVec 3) : Byte :=
  match kind.toNat with
  | 1 => 0x07
  | 2 => 0x07
  | 3 => 0x0F
  | 4 => 0x01
  | _ => 0x00

theorem kind_cases (k : BitVec 3) :
    k = 0 ∨ k = 1 ∨ k = 2 ∨ k = 3 ∨ k = 4 ∨ k = 5 ∨ k = 6 ∨ k = 7 := by
  revert k; decide

/-- The operation of a special event, by the code bit (R55). -/
def specialOf (code : Bool) : Instr := if code then .itSpecialResetdisplay else .itSpecialQuit

theorem eventBits_specialOf (code : Bool) : (specialOf code).eventBits = 0x701 := by
  cases code <;> rfl

theorem encode_specialOf (cfg : Config) (code : Bool) :
    encode cfg (specialOf code) = .ev11 (eventWord 4 (flagAt code 0)) := by
  cases code <;> rfl

theorem eventBits_decodeEvent (ev : EventWord) :
    (decodeEvent ev).eventBits = eventWord 7 (usedArgument (ev.extractLsb' 8 3)) := by
  rcases kind_cases (ev.extractLsb' 8 3) with hk | hk | hk | hk | hk | hk | hk | hk <;>
    rw [decodeEvent, hk]
  case inr.inr.inr.inr.inl => exact eventBits_specialOf _
  all_goals rfl

/-- The argument bits of a control (R55). -/
theorem setWidth_control (ev : EventWord) :
    (ev.extractLsb' 0 3).setWidth 8 = ev.extractLsb' 0 8 &&& 0x07 := by
  refine BitVec.eq_of_getLsbD_eq fun i hi => ?_
  interval_cases i <;> simp

/-- The argument bits of a hat (R55). -/
theorem hatFlags_argument (ev : EventWord) :
    flagAt (ev.getLsbD 3) 3 ||| flagAt (ev.getLsbD 2) 2 ||| flagAt (ev.getLsbD 1) 1 |||
      flagAt (ev.getLsbD 0) 0 = ev.extractLsb' 0 8 &&& 0x0F := by
  refine BitVec.eq_of_getLsbD_eq fun i hi => ?_
  simp only [BitVec.getLsbD_or, BitVec.getLsbD_and, getLsbD_flagAt, BitVec.getLsbD_extractLsb']
  interval_cases i <;> simp

/-- The argument bit of a special code (R55). -/
theorem specialCode_argument (ev : EventWord) :
    flagAt (ev.getLsbD 0) 0 = ev.extractLsb' 0 8 &&& 0x01 := by
  refine BitVec.eq_of_getLsbD_eq fun i hi => ?_
  simp only [BitVec.getLsbD_and, getLsbD_flagAt, BitVec.getLsbD_extractLsb']
  interval_cases i <;> simp

/-- The operation an event word selects has that word, up to the bits its kind ignores (R55, R62). -/
theorem encode_decodeEvent (cfg : Config) (ev : EventWord) :
    encode cfg (decodeEvent ev) = .ev11 (ev &&& (decodeEvent ev).eventBits) := by
  have hword : ∀ {k : BitVec 3} {a a' : Byte}, a = a' →
      SymbolWord.ev11 (eventWord k a) = .ev11 (eventWord k a') := fun h => by rw [h]
  have hcontrol : (Control.ofIndex (ev.extractLsb' 0 3)).index.setWidth 8 =
      ev.extractLsb' 0 8 &&& 0x07 := by
    rw [Control.index_ofIndex, setWidth_control]
  have hunused : 0 = ev.extractLsb' 0 8 &&& 0 := BitVec.and_zero.symm
  rw [eventBits_decodeEvent, and_eventWord_seven]
  rcases kind_cases (ev.extractLsb' 8 3) with hk | hk | hk | hk | hk | hk | hk | hk <;>
    rw [decodeEvent, hk]
  case inl => exact hword hunused
  case inr.inl => exact hword hcontrol
  case inr.inr.inl => exact hword hcontrol
  case inr.inr.inr.inl => exact hword (hatFlags_argument ev)
  case inr.inr.inr.inr.inl =>
    exact (encode_specialOf cfg _).trans (hword (specialCode_argument ev))
  all_goals exact hword hunused

theorem decodeEvent_selectedIn (cfg : Config) (c : Context) (ev : EventWord) :
    (decodeEvent ev).selectedIn cfg c = true := by
  rcases decodeEvent_cases ev with
    (h | ⟨_, h⟩ | ⟨_, h⟩ | ⟨_, _, _, _, h⟩ | h | h | h) | ⟨_, h⟩ <;> rw [h] <;> rfl

/-- Settles O5: words that agree on the used bits have the same kind, so they have the same word up to
ignored bits, and the operation of that word is one. -/
theorem ignoredEventBitsMakeNoDifference : Obligations.IgnoredEventBitsMakeNoDifference := by
  intro ev ev' hbits
  have hkind : ev'.extractLsb' 8 3 = ev.extractLsb' 8 3 := by
    rw [eventBits_decodeEvent, and_eventWord_seven, and_eventWord_seven] at hbits
    simpa using congrArg (BitVec.extractLsb' 8 3) hbits
  have hword : encode Config.standard (decodeEvent ev') = encode Config.standard (decodeEvent ev) := by
    rw [encode_decodeEvent, encode_decodeEvent, eventBits_decodeEvent ev', hkind,
      ← eventBits_decodeEvent ev, hbits]
  have hdec : ∀ w, decode Config.standard .afterReset (encode Config.standard (decodeEvent w)) =
      .ok (decodeEvent w) := fun w => decode_encode (by decide) (decodeEvent_selectedIn ..)
  have h := hdec ev'
  rw [hword, hdec ev] at h
  exact (Except.ok.inj h).symm

/-- Settles O2: by the format of the word; each classifier answers a selected operation of that word. -/
theorem decodedOperationIsSelectedAndEncodesBack :
    Obligations.DecodedOperationIsSelectedAndEncodesBack := by
  intro cfg c w i hdec
  suffices h : i.selectedIn cfg c = true ∧ encode cfg i = w.significant i by
    obtain ⟨hsel, henc⟩ := h
    obtain ⟨hwf, hcond⟩ := Bool.and_eq_true_iff.1 hsel
    exact ⟨hwf, hcond, henc⟩
  cases w with
  | rst1 w =>
    simp only [decode] at hdec
    split at hdec
    · cases hdec
      exact ⟨rfl, congrArg SymbolWord.rst1 ‹w = 1›.symm⟩
    · cases hdec
  | feed8 b =>
    cases hdec
    exact ⟨decodeFeed_selectedIn cfg c b, encode_decodeFeed cfg c b⟩
  | ev11 ev =>
    cases hdec
    exact ⟨decodeEvent_selectedIn cfg c ev, encode_decodeEvent cfg ev⟩
  | msg9 w =>
    simp only [decode] at hdec
    split at hdec
    case h_1 msg hmsg =>
      cases hdec
      refine ⟨decodeMessage_selectedIn cfg c msg, (encode_decodeMessage cfg c.last msg).trans ?_⟩
      exact congrArg SymbolWord.msg9 (encode_of_ofWord hmsg)
    case h_2 => cases hdec

/-- Settles O4: each word's fields are those of R55, each byte's class that of R47 or R48. -/
theorem writtenOutWordsDecode : Obligations.WrittenOutWordsDecode :=
  ⟨rfl, rfl, rfl, rfl, rfl, rfl, rfl⟩

/-! ## The stream encoding of a frame -/

theorem endByte_not_mem_slipEscape {cfg : Config} (hc : cfg.WellFormed) (x : Byte) :
    cfg.endByte ∉ slipEscape cfg x := by
  obtain ⟨-, hEsc, hEscEnd, hEscEsc, -⟩ := hc
  unfold slipEscape
  split
  · simp [hEsc, hEscEnd]
  · split
    · simp [hEsc, hEscEsc]
    · simpa using Ne.symm ‹¬x = cfg.endByte›

/-- Settles O7, by induction on the sequence: no byte is escaped with an `END`. -/
theorem escapedBytesHoldNoTerminator : Obligations.EscapedBytesHoldNoTerminator := by
  intro cfg S hc
  induction S with
  | nil => exact List.not_mem_nil
  | cons x S ih => exact List.not_mem_append (endByte_not_mem_slipEscape hc x) ih

/-! ## The width of `len` -/

/-- Settles O9: `C > 0` lies between the powers of two of its binary logarithm and of the next number. -/
theorem lengthWidthIsTheLeastThatHoldsC : Obligations.LengthWidthIsTheLeastThatHoldsC := by
  intro cfg
  unfold Config.lenWidth
  split
  · exact ⟨by simp [*], fun k _ => Nat.zero_le k⟩
  · exact ⟨Nat.lt_log2_self, fun k hk => (Nat.log2_lt ‹_›).2 hk⟩

end Sys2Proof.Machine
end

section
/-! SUPPORT. Where operations run and what each does to the frame window (`30_encoding.md` R64, `20_memory.md`
R36), `RESET` (`70_reset_and_hazards.md`), and the operations of `FD` in a drop window and on an escaped
literal that does not fit (`40_framer.md`). -/

namespace Sys2Proof.Machine

/-! ## Where operations run -/

/-- Settles O32: `exec_next` and `exec_of_selected` are the two directions; an operation of `IT` and `RESET`
are selected everywhere. -/
theorem operationsCompleteExactlyWhereSelected : Obligations.OperationsCompleteExactlyWhereSelected := by
  intro i s
  refine ⟨⟨?_, ?_⟩, ?_⟩
  · rintro ⟨t, hexec⟩
    refine ⟨(exec_next hexec).1, ?_⟩
    rintro k rfl
    cases hexec
  · rintro ⟨hsel, hr⟩
    exact ⟨nextState i s, exec_of_selected hr hsel⟩
  · intro hsel
    cases i with
    | itNone | itPress | itRelease | itHat | itSpecialQuit | itSpecialResetdisplay | itHotplug
    | evReserved | reset => cases hsel
    | _ => exact whenSelected_of_not _ hsel

/-- Settles O45, by the operation: `completeFrame` opens the window, `answer`, `raiseError` and `resetBlock`
close it, and no operation of `IT` or `ED` writes it. -/
theorem feedAndResetAloneMoveTheFrameWindow : Obligations.FeedAndResetAloneMoveTheFrameWindow := by
  intro i s t hexec
  obtain ⟨-, rfl⟩ := exec_next hexec
  refine ⟨?_, fun b he hne => ?_, ?_, ?_⟩
  · rintro rfl
    exact completeFrame_window s
  · cases i with
    | fdNEndFrame => exact absurd rfl hne
    | fdDropEnd | fdDropSkip | fdNEndEmpty | fdNEsc | fdNData | fdNDataOvf | fdEEscEnd | fdEEscEsc
    | fdEOvf | fdEInvalid => rfl
    | _ => cases he
  · rintro rfl
    exact resetBlock_window s
  · rintro (⟨w, he⟩ | ⟨w, he⟩)
    · cases i with
      | itNone | itPress | itRelease | itHat | itSpecialQuit | itSpecialResetdisplay | itHotplug
      | evReserved => rfl
      | _ => cases he
    · obtain ⟨⟨-, -, -, hwindow, -⟩, -⟩ := edgeFrame_nextState s he
      exact hwindow

/-! ## `RESET` -/

/-- Settles O31: `RESET` is `resetBlock`; with `len` 0 and no window open the spec promises no cell. -/
theorem resetGivesTheResetValues : Obligations.ResetGivesTheResetValues := by
  intro s
  exact ⟨resetBlock s, rfl, rfl, rfl, rfl, rfl, rfl, rfl, rfl, frameByteAt_closed rfl,
    bufAt_resetBlock s, rfl, fun _ => rfl, rfl, rfl⟩

/-- With well-formed parameters the state right after reset meets the invariant: nothing is stored and no
window is open. -/
theorem inv_resetOf {cfg : Config} (hc : cfg.WellFormed) : Inv (State.resetOf cfg) where
  config := hc
  len_le := Nat.zero_le _
  dropping := nofun
  escaping := nofun
  buf_wf := rfl
  buf_bound := nofun
  partial_written := nofun
  window_whole := nofun

/-- Settles O33: the values are those of `State.resetOf`, and the standard parameters are well-formed. -/
theorem resetStateMeetsTheInvariant : Obligations.ResetStateMeetsTheInvariant := by
  have hstandard : Config.standard.WellFormed := by decide
  exact ⟨rfl, rfl, rfl, rfl, rfl, rfl, fun i => bufAt_free (Nat.zero_le i) (Nat.zero_le i),
    Buffer.stored_nil, inv_resetOf hstandard⟩

/-! ## `FD` in a drop window, and an escaped literal that does not fit -/

section
variable {cfg : Config} {c : Context}

theorem selectedIn_fdDropSkip {b : Byte} : (Instr.fdDropSkip b).selectedIn cfg c = true ↔
    b ≠ cfg.endByte ∧ c.drop = true := by
  simp [Instr.selectedIn, Instr.wellFormed, Instr.stateCondition]

theorem selectedIn_fdDropEnd : Instr.fdDropEnd.selectedIn cfg c = true ↔ c.drop = true := by
  simp [Instr.selectedIn, Instr.wellFormed, Instr.stateCondition]

theorem selectedIn_fdEOvf {marker : Marker} : (Instr.fdEOvf marker).selectedIn cfg c = true ↔
    c.drop = false ∧ c.mode = .escaped ∧ cfg.capacity ≤ c.len := by
  simp [Instr.selectedIn, Instr.wellFormed, Instr.stateCondition, and_assoc]

end

/-- Settles O10: the operation only answers `Pending`. -/
theorem dropSkipDiscardsTheByte : Obligations.DropSkipDiscardsTheByte := by
  intro s b hd hb
  obtain ⟨hexec, hframe⟩ :=
    exec_feed_of_selected (s := s) rfl (selectedIn_fdDropSkip.2 ⟨hb, hd⟩)
  exact ⟨_, hexec, rfl, rfl, hd, rfl, fun _ => rfl, hframe⟩

/-- Settles O11: the operation clears `drop` and answers `Pending`. -/
theorem dropEndClosesTheDropWindow : Obligations.DropEndClosesTheDropWindow := by
  intro s hd
  obtain ⟨hexec, hframe⟩ := exec_feed_of_selected (s := s) rfl (selectedIn_fdDropEnd.2 hd)
  exact ⟨_, hexec, rfl, rfl, rfl, rfl, fun _ => rfl, hframe⟩

/-- Settles O19: at `len = C` neither marker's literal is below the capacity, and the operation raises
Overflow. -/
theorem escapedLiteralThatDoesNotFitOverflows : Obligations.EscapedLiteralThatDoesNotFitOverflows := by
  intro s marker hd hm hl
  obtain ⟨hexec, hframe⟩ :=
    exec_feed_of_selected (s := s) rfl ((selectedIn_fdEOvf (marker := marker)).2 ⟨hd, hm, hl.ge⟩)
  exact ⟨_, hexec, rfl, rfl, rfl, rfl, fun _ => rfl, hframe⟩

end Sys2Proof.Machine
end

section
/-! SUPPORT. The input side: the remaining operations of the input translator and its laws
(`41_input_debouncer.md` R86 to R94), and what every `SAMPLE` makes of `last` (`42_edge_detector.md`). -/

namespace Sys2Proof.Machine

/-! ## Masks as sets of controls -/

/-- Masks that agree on the bit of every control are equal (R60). -/
theorem mask_ext {k k' : Byte}
    (h : ∀ c : Control, k'.getLsbD c.index.toNat = k.getLsbD c.index.toNat) : k' = k :=
  BitVec.eq_of_getLsbD_eq fun i hi => by
    obtain ⟨c, rfl⟩ := exists_index_toNat_eq hi
    exact h c

/-- Settles O21: `keyAfter` of either is the old `key`. -/
theorem noneAndHotplugReportTheMask : Obligations.NoneAndHotplugReportTheMask := by
  rintro s i (rfl | rfl)
  · obtain ⟨hexec, hframe⟩ := exec_translates (i := .itNone) (s := s) rfl nofun
    exact ⟨_, hexec, rfl, rfl, hframe⟩
  · obtain ⟨hexec, hframe⟩ := exec_translates (i := .itHotplug) (s := s) rfl nofun
    exact ⟨_, hexec, rfl, rfl, hframe⟩

/-- The bits of a `HAT` lie in the region (R61). -/
theorem hatBits_subset_dirRegion (l u d r : Bool) : hatBits l u d r &&& ~~~dirRegion = 0 := by
  refine mask_ext fun c => ?_
  rw [BitVec.getLsbD_and, BitVec.getLsbD_not, getLsbD_hatBits, getLsbD_dirRegion l u d r]
  refine Eq.trans ?_ BitVec.getLsbD_zero.symm
  cases hatFlag l u d r c <;> simp

/-- Settles O24: `getLsbD_hatKey` at each of the eight controls. -/
theorem hatReplacesTheDirectionBits : Obligations.HatReplacesTheDirectionBits := by
  intro s l u d r
  obtain ⟨hexec, hframe⟩ := exec_translates (i := .itHat l u d r) (s := s) rfl nofun
  have hbit := fun c => getLsbD_hatKey l u d r c s.key
  exact ⟨rfl, hatBits_subset_dirRegion l u d r, _, hexec, rfl, hbit .left, hbit .up, hbit .down,
    hbit .right, hbit .select, hbit .start, hbit .option, hbit .edit, rfl, hframe⟩

/-! ## The laws of the translator -/

theorem releaseKey_pressKey_comm {c d : Control} (h : c ≠ d) (k : Byte) :
    releaseKey d (pressKey c k) = pressKey c (releaseKey d k) := by
  refine mask_ext fun e => ?_
  simp only [getLsbD_releaseKey, getLsbD_pressKey]
  split
  · rw [if_neg (fun hce => h (hce.trans (Eq.symm ‹d = e›)))]
  · rfl

theorem pressKey_pressKey_comm (c d : Control) (k : Byte) :
    pressKey d (pressKey c k) = pressKey c (pressKey d k) := by
  refine mask_ext fun e => ?_
  simp only [getLsbD_pressKey]
  split <;> split <;> rfl

theorem releaseKey_releaseKey_comm (c d : Control) (k : Byte) :
    releaseKey d (releaseKey c k) = releaseKey c (releaseKey d k) := by
  refine mask_ext fun e => ?_
  simp only [getLsbD_releaseKey]
  split <;> split <;> rfl

/-- Every `HAT` replaces the bits of the same controls. -/
theorem hatKey_hatKey (l u d r l' u' d' r' : Bool) (k : Byte) :
    hatKey l' u' d' r' (hatKey l u d r k) = hatKey l' u' d' r' k := by
  refine mask_ext fun c => ?_
  simp only [getLsbD_hatKey]
  cases c <;> rfl

/-- An action control is one that no `HAT` carries a flag for (R61). -/
theorem hatFlag_action {c : Control} (h : c = .select ∨ c = .start ∨ c = .option ∨ c = .edit)
    (l u d r : Bool) : hatFlag l u d r c = none := by
  rcases h with rfl | rfl | rfl | rfl <;> rfl

/-- A `HAT` with four equal flags gives that flag to each direction (R61). -/
theorem hatFlag_direction {c : Control} (h : c = .left ∨ c = .up ∨ c = .down ∨ c = .right)
    (f : Bool) : hatFlag f f f f c = some f := by
  rcases h with rfl | rfl | rfl | rfl <;> rfl

theorem pressKey_hatKey_comm {c : Control} {l u d r : Bool} (h : hatFlag l u d r c = none) (k : Byte) :
    pressKey c (hatKey l u d r k) = hatKey l u d r (pressKey c k) := by
  refine mask_ext fun e => ?_
  simp only [getLsbD_hatKey, getLsbD_pressKey]
  split
  · next hce => rw [← hce, h]; rfl
  · rfl

theorem releaseKey_hatKey_comm {c : Control} {l u d r : Bool} (h : hatFlag l u d r c = none)
    (k : Byte) : releaseKey c (hatKey l u d r k) = hatKey l u d r (releaseKey c k) := by
  refine mask_ext fun e => ?_
  simp only [getLsbD_hatKey, getLsbD_releaseKey]
  split
  · next hce => rw [← hce, h]; rfl
  · rfl

/-- Outcomes that report masks which differ in a bit differ. -/
theorem reportKey_ne {k k' : Byte} (i : Nat) (s : State) (h : k.getLsbD i ≠ k'.getLsbD i) :
    (.next (reportKey k s) : Host.Outcome State Fault Refusal) ≠ .next (reportKey k' s) := by
  intro heq
  have hkey : k = k' := congrArg State.key (Host.Outcome.next.inj heq)
  exact h (by rw [hkey])

/-- Settles O60: every composite is a report of a composite of updates of `key`, and those obey the laws bit
by bit. A direction tells a `HAT` without it from a later `PRESS`, and a `HAT` with it from a later
`RELEASE`. -/
theorem translatorLaws : Obligations.TranslatorLaws := by
  have hreport : ∀ {k k' : Byte} (s : State), k = k' →
      (.next (reportKey k s) : Host.Outcome State Fault Refusal) = .next (reportKey k' s) :=
    fun s h => by rw [h]
  refine ⟨?inverse, ?different, ?override, ?action, ?direction⟩
  case inverse =>
    intro s t c h
    cases h
    exact (getLsbD_releaseKey c c _).trans (if_pos rfl)
  case different =>
    intro s c d hcd
    exact ⟨hreport s (releaseKey_pressKey_comm hcd s.key), hreport s (pressKey_pressKey_comm c d s.key),
      hreport s (releaseKey_releaseKey_comm c d s.key)⟩
  case override =>
    intro s l u d r l' u' d' r'
    exact hreport s (hatKey_hatKey l u d r l' u' d' r' s.key)
  case action =>
    intro s c l u d r hc
    have hflag := hatFlag_action hc l u d r
    exact ⟨hreport s (pressKey_hatKey_comm hflag s.key), hreport s (releaseKey_hatKey_comm hflag s.key)⟩
  case direction =>
    intro s c hc
    refine ⟨⟨false, false, false, false, reportKey_ne c.index.toNat s ?_⟩,
      ⟨true, true, true, true, reportKey_ne c.index.toNat s ?_⟩⟩
    · simp only [reportKey_key, getLsbD_pressKey, getLsbD_hatKey, hatFlag_direction hc, if_true]
      exact Bool.false_ne_true.symm
    · simp only [reportKey_key, getLsbD_releaseKey, getLsbD_hatKey, hatFlag_direction hc, if_true]
      exact Bool.false_ne_true

/-! ## What a `SAMPLE` makes of `last` -/

/-- The action on a message that differs from `last` is never `NoAction` (R102 to R104). -/
theorem actionOf_ne_noAction (msg : Message) : actionOf msg ≠ .noAction := by
  rcases msg with m | _ | _ <;> nofun

/-- Only a `Normal` message is transmitted as a mask (R102). -/
theorem eq_normal_of_actionOf {msg : Message} {m : Byte} (h : actionOf msg = .txInput m) :
    msg = .normal m := by
  rcases msg with k | _ | _ <;> cases h
  rfl

/-- Settles O57: `last` becomes the message, and the action is `NoAction` exactly in the branch where they
are equal. -/
theorem lastIsTheMessageOfEverySample : Obligations.LastIsTheMessageOfEverySample := by
  intro s t ev hrun
  obtain ⟨-, rfl⟩ := runSample_next hrun
  rw [sampled_out_msg, sampled_out_act, sampled_last]
  refine ⟨rfl, ?_⟩
  split
  case isTrue h => exact ⟨⟨fun _ => h, fun _ => rfl⟩, nofun⟩
  case isFalse h =>
    exact ⟨⟨fun ha => absurd (Option.some.inj ha) (actionOf_ne_noAction _), fun hl => absurd hl h⟩,
      fun m ha => eq_normal_of_actionOf (Option.some.inj ha)⟩

/-- Settles O58: the message is the `Normal` of the new `key`, which no `Special` equals. -/
theorem maskIsRetransmittedAfterASpecial : Obligations.MaskIsRetransmittedAfterASpecial := by
  intro s code ev hlast hlegal hq hd
  have hmsg := messageOf_eq_normal s.key hq hd
  refine ⟨_, runSample_eq s ((legalEvent_iff ev).1 hlegal), ?_, ?_⟩
  · rw [sampled_out_act, hmsg, hlast, if_neg nofun]
    rfl
  · rw [sampled_last, hmsg, sampled_key]

end Sys2Proof.Machine
end

section
/-! SUPPORT. A `FEED` as a whole: what its result and the next decoder state depend on (`40_framer.md` R65,
R67), what it does to the frame window (`20_memory.md` R36), and errors that do not nest
(`60_exceptions.md` R123). -/

namespace Sys2Proof.Machine

/-! ## What the next decoder state depends on -/

/-- Which operation a `FEED` selects does not depend on `last` (R67). -/
theorem decodeFeed_congr {s s' : State} (hcfg : s'.cfg = s.cfg) (hmode : s'.mode = s.mode)
    (hdrop : s'.drop = s.drop) (hlen : s'.len = s.len) (b : Byte) :
    decodeFeed s'.cfg s'.context b = decodeFeed s.cfg s.context b := by
  have hctx : s'.context = { s.context with last := s'.last } := by
    simp only [State.context, hmode, hdrop, hlen]
  have hlast : decodeFeed s.cfg { s.context with last := s'.last } b = decodeFeed s.cfg s.context b :=
    rfl
  rw [hcfg, hctx, hlast]

/-- `s'` has the decoder control state, the window and the result of `s`: all of `FD` but the buffer. -/
structure SameControl (s s' : State) : Prop where
  mode : s'.mode = s.mode
  drop : s'.drop = s.drop
  len : s'.len = s.len
  window : s'.window = s.window
  res : s'.out.res = s.out.res

/-- An operation of `FD` makes the same of two states with the same `mode`, `drop` and `len`. -/
theorem sameControl_nextState {cfg : Config} {i : Instr} {b : Byte} {s s' : State}
    (he : encode cfg i = .feed8 b) (hmode : s'.mode = s.mode) (hdrop : s'.drop = s.drop)
    (hlen : s'.len = s.len) : SameControl (nextState i s) (nextState i s') := by
  cases i with
  | fdDropEnd => exact ⟨hmode, rfl, hlen, rfl, rfl⟩
  | fdDropSkip | fdNEndEmpty => exact ⟨hmode, hdrop, hlen, rfl, rfl⟩
  | fdNEndFrame => exact ⟨hmode, hdrop, rfl, congrArg some hlen, by simp [nextState, hlen]⟩
  | fdNEsc => exact ⟨rfl, hdrop, hlen, rfl, rfl⟩
  | fdNData => exact ⟨hmode, hdrop, congrArg (· + 1) hlen, rfl, rfl⟩
  | fdEEscEnd | fdEEscEsc => exact ⟨rfl, hdrop, congrArg (· + 1) hlen, rfl, rfl⟩
  | fdNDataOvf | fdEOvf => exact ⟨rfl, rfl, rfl, rfl, rfl⟩
  | fdEInvalid => exact ⟨rfl, hdrop, rfl, rfl, rfl⟩
  | _ => cases he

/-- The state a `FEED` gives. -/
def fed (b : Byte) (s : State) : State := nextState (decodeFeed s.cfg s.context b) s

theorem runFeed_fed (b : Byte) (s : State) : runFeed b s = .next (fed b s) := runFeed_eq b s

/-- A `FEED` makes the same of two states with the same `mode`, `drop`, `len` and parameters. -/
theorem sameControl_fed {s s' : State} (hcfg : s'.cfg = s.cfg) (hmode : s'.mode = s.mode)
    (hdrop : s'.drop = s.drop) (hlen : s'.len = s.len) (b : Byte) :
    SameControl (fed b s) (fed b s') := by
  unfold fed
  rw [decodeFeed_congr hcfg hmode hdrop hlen b]
  exact sameControl_nextState (encode_decodeFeed s.cfg s.context b) hmode hdrop hlen

/-- What a `FEED` leaves unchanged (R7, R65). -/
theorem feedFrame_fed (b : Byte) (s : State) : FeedFrame s (fed b s) :=
  feedFrame_nextState s (encode_decodeFeed s.cfg s.context b)

/-- A `FEED` that gives a next state kept the frame of a `FEED`. -/
theorem feedFrame_runFeed {b : Byte} {s t : State} (h : runFeed b s = .next t) : FeedFrame s t := by
  cases (runFeed_fed b s).symm.trans h
  exact feedFrame_fed b s

/-- Every `FEED` returns a result; a reported frame opens its window, and no other result does (R36, R65). -/
theorem runFeed_window {b : Byte} {s t : State} (h : runFeed b s = .next t) :
    (∃ n, t.out.res = some (.frameReady n) ∧ t.window = some n) ∨
      ((t.out.res = some .pending ∨ ∃ kind, t.out.res = some (.error kind)) ∧ t.window = none) := by
  rcases runFeed_cases h with rfl | ⟨-, rfl⟩ | ⟨-, -, -, rfl⟩ | ⟨-, -, rfl⟩ | ⟨v, -, -, rfl⟩ |
    ⟨-, -, rfl⟩ | ⟨-, -, rfl⟩
  case inr.inr.inl => exact .inl ⟨s.len, rfl, rfl⟩
  case inr.inr.inr.inr.inr.inl => exact .inr ⟨.inr ⟨.overflow, rfl⟩, rfl⟩
  case inr.inr.inr.inr.inr.inr => exact .inr ⟨.inr ⟨.invalidEscape, rfl⟩, rfl⟩
  all_goals exact .inr ⟨.inl rfl, rfl⟩

/-- Settles O47: the result exists by `runFeed_window`, and `sameControl_fed` says what it depends on. -/
theorem feedIsTotal : Obligations.FeedIsTotal := by
  intro s b
  obtain ⟨r, hr⟩ : ∃ r, (fed b s).out.res = some r := by
    rcases runFeed_window (runFeed_fed b s) with ⟨n, hr, -⟩ | ⟨hr | ⟨kind, hr⟩, -⟩
    · exact ⟨_, hr⟩
    · exact ⟨_, hr⟩
    · exact ⟨_, hr⟩
  refine ⟨fed b s, r, runFeed_fed b s, hr, fun s' hcfg hmode hdrop hlen => ?_⟩
  have hsame := sameControl_fed hcfg hmode hdrop hlen b
  exact ⟨fed b s', runFeed_fed b s', hsame.res.trans hr, hsame.mode, hsame.drop, hsame.len⟩

/-- Outputs are equal port by port. -/
theorem PortOutput.ext_ports {o o' : PortOutput} (hres : o'.res = o.res) (hmsg : o'.msg = o.msg)
    (hact : o'.act = o.act) (hframe : o'.frameByte = o.frameByte) : o' = o := by
  cases o; cases o'; simp_all

/-- Settles O48: the two states differ in `buf` alone, so `sameControl_fed` covers what a `FEED` writes
outside `buf`, and the frame of a `FEED` the rest. -/
theorem feedNeverReadsTheBuffer : Obligations.FeedNeverReadsTheBuffer := by
  intro s t m b hrun
  cases (runFeed_fed b s).symm.trans hrun
  have hsame := sameControl_fed (s := s) (s' := { s with buf := m }) rfl rfl rfl rfl b
  obtain ⟨⟨hkey, hlast⟩, -, -, hmsg, hact, hframe⟩ := feedFrame_fed b s
  obtain ⟨⟨hkey', hlast'⟩, -, -, hmsg', hact', hframe'⟩ := feedFrame_fed b { s with buf := m }
  exact ⟨_, runFeed_fed b _, hsame.mode, hsame.drop, hsame.len, hsame.window,
    PortOutput.ext_ports hsame.res (hmsg'.trans hmsg.symm) (hact'.trans hact.symm)
      (hframe'.trans hframe.symm),
    hkey'.trans hkey.symm, hlast'.trans hlast.symm⟩

/-! ## Errors -/

/-- A `FEED` that raised an error leaves a drop window or an empty frame in `Normal` mode (R114, R115). -/
theorem runFeed_error {b : Byte} {s t : State} {kind : DecoderError} (h : runFeed b s = .next t)
    (he : t.out.res = some (.error kind)) :
    t.drop = true ∨ (t.drop = false ∧ t.mode = .normal ∧ t.len = 0) := by
  rcases runFeed_cases h with rfl | ⟨-, rfl⟩ | ⟨-, -, -, rfl⟩ | ⟨-, -, rfl⟩ | ⟨v, -, -, rfl⟩ |
    ⟨-, -, rfl⟩ | ⟨hd, -, rfl⟩
  case inr.inr.inr.inr.inr.inl => exact .inl rfl
  case inr.inr.inr.inr.inr.inr => exact .inr ⟨hd, rfl, rfl⟩
  all_goals cases he

/-- Settles O49: in a drop window every byte gives `Pending`, and so it does with `len` 0, since `C` is at
least 1. -/
theorem errorsDoNotNest : Obligations.ErrorsDoNotNest := by
  intro s t b b' kind hc hrun herr
  obtain ⟨-, ⟨hcfg, -⟩, -⟩ := feedFrame_runFeed hrun
  rcases runFeed_error hrun herr with hd | ⟨hd, hm, hl⟩
  · refine ⟨_, runFeed_dropping b' hd, ?_⟩
    split <;> rfl
  · have hroom : t.len < t.cfg.capacity := by
      rw [hl, hcfg]
      exact hc.1
    have hempty : ¬ 0 < t.len := by omega
    refine ⟨_, runFeed_normal b' hd hm, ?_⟩
    rw [if_neg hempty, if_pos hroom]
    split
    · rfl
    · split <;> rfl

end Sys2Proof.Machine
end

section
/-! SUPPORT. A step (`30_encoding.md` R45): the operations its ports present, their order (R7), the look at the
frame read port (`20_memory.md` R35), and when a step is answered (`60_exceptions.md` R128). -/

namespace Sys2Proof.Machine

/-! ## The operations of a step -/

@[simp] theorem andThen_next_right (o : Host.Outcome State Fault Refusal) : andThen o .next = o := by
  cases o <;> rfl

theorem runPorts_of_rst {p : PortInput} (h : p.rst = true) (s : State) :
    runPorts p s = .next (resetBlock s) := if_pos h

theorem runPorts_of_not_rst {p : PortInput} (h : p.rst = false) (s : State) :
    runPorts p s = andThen (runFeedPort p s) (runSamplePort p) := if_neg (by simp [h])

theorem runFeedPort_of_valid {p : PortInput} (h : p.feedValid = true) (s : State) :
    runFeedPort p s = runFeed p.feedByte s := if_pos h

theorem runFeedPort_of_not_valid {p : PortInput} (h : p.feedValid = false) (s : State) :
    runFeedPort p s = .next s := if_neg (by simp [h])

theorem runSamplePort_of_valid {p : PortInput} (h : p.sampleValid = true) :
    runSamplePort p = runSample p.ev := funext fun _ => if_pos h

theorem runSamplePort_of_not_valid {p : PortInput} (h : p.sampleValid = false) :
    runSamplePort p = .next := funext fun _ => if_neg (by simp [h])

/-- With well-formed parameters a step is the operations presented, then the look at the frame read port. -/
theorem step_eq_look {s : State} (h : s.cfg.WellFormed) :
    step s = andThen (runPorts (presented s) (clearOutputs (consume s)))
      (fun t => .next (readPort (presented s).frameIdx t)) := step_eq h

theorem step_of_ill_formed {s : State} (h : ¬ s.cfg.WellFormed) :
    step s = .refused .illFormedInstance := if_neg h

/-- Settles O36: `runPorts` looks at `rst` before the other ports. -/
theorem resetPortHasPriority : Obligations.ResetPortHasPriority := by
  intro s hc hr
  rw [step_eq_look hc, runPorts_of_rst hr]
  rfl

/-- Settles O34: the step has one operation, and clearing the outputs leaves what selection reads. -/
theorem stepRunsTheDecodedFeed : Obligations.StepRunsTheDecodedFeed := by
  intro s i hc hr hf hs hdec
  obtain rfl : decodeFeed s.cfg s.context (presented s).feedByte = i := Except.ok.inj hdec
  rw [step_eq_look hc, runPorts_of_not_rst hr, runFeedPort_of_valid hf,
    runSamplePort_of_not_valid hs, andThen_next_right]
  rfl

/-- Settles O35: the step has the two operations of one `SAMPLE`, and the first of them gives a message, whose
word is read back. -/
theorem stepRunsTheDecodedSample : Obligations.StepRunsTheDecodedSample := by
  intro s i hc hr hf hs hdec
  obtain rfl : decodeEvent (presented s).ev = i := Except.ok.inj hdec
  have hstep : step s = andThen (andThen (exec (decodeEvent (presented s).ev) (clearOutputs (consume s)))
      runEdge) (fun t => .next (readPort (presented s).frameIdx t)) := by
    rw [step_eq_look hc, runPorts_of_not_rst hr, runFeedPort_of_not_valid hf, andThen_next,
      runSamplePort_of_valid hs, runSample]
  refine ⟨fun t hexec => ?_, fun r hexec => ?_⟩
  · have hlegal : ∀ k, decodeEvent (presented s).ev ≠ .evReserved k := fun k hk => by
      rw [hk] at hexec
      cases hexec
    obtain ⟨msg, hmsg⟩ : ∃ msg, t.out.msg = some msg := by
      cases (exec_event _ hlegal).symm.trans hexec
      exact ⟨_, rfl⟩
    refine ⟨msg, decodeMessage t.last msg, hmsg, ?_, ?_⟩
    · rw [decode, Message.ofWord_encode]
      rfl
    · rw [hstep, hexec, andThen_next, runEdge, hmsg]
  · rw [hstep, hexec]
    rfl

/-! ## The look at the frame read port -/

/-- A look adds the port's answer and changes nothing else (R35). -/
theorem step_look (s : State) (p : PortInput) (i : Nat) :
    step (present { p with frameIdx := some i } s) =
      andThen (step (present { p with frameIdx := none } s))
        (fun t => .next { t with out := { t.out with frameByte := some (frameByteAt t i) } }) := by
  by_cases hc : s.cfg.WellFormed
  · have hports : ∀ idx : Option Nat, step (present { p with frameIdx := idx } s) =
        andThen (runPorts p (clearOutputs s)) (fun t => .next (readPort idx t)) :=
      fun _ => step_eq_look (s := present _ s) hc
    rw [hports, hports]
    cases runPorts p (clearOutputs s) <;> rfl
  · have hports : ∀ q : PortInput, step (present q s) = .refused .illFormedInstance :=
      fun q => step_of_ill_formed (s := present q s) hc
    rw [hports, hports]
    rfl

/-- Settles O37: an idle step only consumes its symbol, empties the outputs and looks at the port. -/
theorem idleStepChangesNothing : Obligations.IdleStepChangesNothing := by
  refine ⟨fun s hc hr hf hs => ?_, step_look⟩
  refine ⟨readPort (presented s).frameIdx (clearOutputs (consume s)), ?_, ?_⟩
  · rw [step_eq_look hc, runPorts_of_not_rst hr, runFeedPort_of_not_valid hf,
      runSamplePort_of_not_valid hs]
    rfl
  · cases (presented s).frameIdx <;>
      exact ⟨⟨rfl, rfl, rfl, rfl, rfl, fun _ => rfl⟩, ⟨rfl, rfl⟩, rfl, rfl, rfl, rfl, rfl, rfl⟩

/-! ## The order of a `FEED` and a `SAMPLE` -/

/-- An operation of `FD` and a `SAMPLE` write different fields (R7). -/
theorem sampled_nextState {cfg : Config} {i : Instr} {b : Byte} (he : encode cfg i = .feed8 b)
    (j : Instr) (s : State) : sampled j (nextState i s) = nextState i (sampled j s) := by
  cases i with
  | fdDropEnd | fdDropSkip | fdNEndFrame | fdNEndEmpty | fdNEsc | fdNData | fdNDataOvf
  | fdEEscEnd | fdEEscEsc | fdEOvf | fdEInvalid => rfl
  | _ => cases he

/-- A `FEED` after a `SAMPLE` gives what the `SAMPLE` after the `FEED` gives. -/
theorem sampled_fed (b : Byte) (j : Instr) (s : State) :
    sampled j (fed b s) = fed b (sampled j s) := by
  have hdec : decodeFeed (sampled j s).cfg (sampled j s).context b = decodeFeed s.cfg s.context b :=
    decodeFeed_congr (sampled_cfg ..) (sampled_mode ..) (sampled_drop ..) (sampled_len ..) b
  unfold fed
  rw [hdec]
  exact sampled_nextState (encode_decodeFeed ..) j s

/-- An event that is not legal is of a reserved kind (R62). -/
theorem exists_reserved {ev : EventWord} (h : legalEvent ev = false) :
    ∃ k, decodeEvent ev = .evReserved k := by
  by_contra hne
  have hlegal := (legalEvent_iff ev).2 fun k hk => hne ⟨k, hk⟩
  exact Bool.false_ne_true (h.symm.trans hlegal)

theorem runFeed_runSample_comm (s : State) (b : Byte) (ev : EventWord) :
    andThen (runFeed b s) (runSample ev) = andThen (runSample ev s) (runFeed b) := by
  rw [runFeed_fed, andThen_next]
  by_cases hlegal : legalEvent ev = true
  · have hl := (legalEvent_iff ev).1 hlegal
    rw [runSample_eq _ hl, runSample_eq _ hl, andThen_next, runFeed_fed, sampled_fed]
  · obtain ⟨k, hk⟩ := exists_reserved (Bool.eq_false_iff.2 hlegal)
    rw [runSample_reserved _ hk, runSample_reserved _ hk, andThen_refused]

/-- Settles O38: a `FEED` and a `SAMPLE` write different fields and neither reads what the other writes, so
their order does not matter, and a refusal of the `SAMPLE` comes in either order. -/
theorem feedAndSampleOfOneStepCommute : Obligations.FeedAndSampleOfOneStepCommute := by
  refine ⟨runFeed_runSample_comm, fun s hc hr hf hs => ?_⟩
  rw [step_eq_look hc, runPorts_of_not_rst hr, runFeedPort_of_valid hf, runSamplePort_of_valid hs,
    runFeed_runSample_comm]

/-! ## Which steps are answered -/

/-- The `FEED` half of a step is always answered (R65). -/
theorem runFeedPort_answers (p : PortInput) (s : State) : ∃ t, runFeedPort p s = .next t := by
  unfold runFeedPort
  split
  · exact ⟨_, runFeed_fed p.feedByte s⟩
  · exact ⟨s, rfl⟩

/-- The `SAMPLE` half of a step without `RESET` is answered when its symbols are legal (R62). -/
theorem runSamplePort_answers {p : PortInput} (hr : p.rst = false) (h : legalPorts p = true)
    (s : State) : ∃ t, runSamplePort p s = .next t := by
  unfold runSamplePort
  split
  · next hs =>
    have hlegal : legalEvent p.ev = true := by simpa [legalPorts, hr, hs] using h
    exact ⟨_, runSample_eq s ((legalEvent_iff p.ev).1 hlegal)⟩
  · exact ⟨s, rfl⟩

/-- Settles O39: `RESET`, the `FEED` half and a legal `SAMPLE` half are all answered. -/
theorem stepAnswersEveryLegalSymbol : Obligations.StepAnswersEveryLegalSymbol := by
  intro s hc hlegal
  rw [step_eq_look hc]
  rcases Bool.eq_false_or_eq_true (presented s).rst with hr | hr
  · rw [runPorts_of_rst hr]
    exact ⟨_, rfl⟩
  · obtain ⟨t, ht⟩ := runFeedPort_answers (presented s) (clearOutputs (consume s))
    obtain ⟨u, hu⟩ := runSamplePort_answers hr hlegal t
    rw [runPorts_of_not_rst hr, ht, andThen_next, hu]
    exact ⟨_, rfl⟩

/-- Ports that are not legal present a reserved kind and no `RESET` (R62). -/
theorem legalPorts_eq_false {p : PortInput} (h : legalPorts p = false) :
    p.rst = false ∧ p.sampleValid = true ∧ ∃ k, decodeEvent p.ev = .evReserved k := by
  simp only [legalPorts, Bool.or_eq_false_iff, Bool.not_eq_false'] at h
  obtain ⟨⟨hr, hs⟩, hev⟩ := h
  exact ⟨hr, hs, exists_reserved hev⟩

/-- Settles O40: the `FEED` half is answered, so the refusal is that of the `SAMPLE` half. -/
theorem stepRefusesWhatTheSpecRefuses : Obligations.StepRefusesWhatTheSpecRefuses := by
  refine fun s => ⟨fun hc hlegal => ?_, step_of_ill_formed⟩
  obtain ⟨hr, hs, k, hk⟩ := legalPorts_eq_false hlegal
  obtain ⟨t, ht⟩ := runFeedPort_answers (presented s) (clearOutputs (consume s))
  rw [step_eq_look hc, runPorts_of_not_rst hr, ht, andThen_next, runSamplePort_of_valid hs,
    runSample_reserved t hk, andThen_refused]

end Sys2Proof.Machine
end

section
/-! SUPPORT. What every step keeps: the decoder's part of a step, the invariant (`10_state.md` R14, R15, R18),
and the frame window (`20_memory.md` R36 to R38). -/

namespace Sys2Proof.Machine

/-! ## The decoder's part of a step -/

/-- `t` has the decoder, the parameters, the symbols to come and the result of `s`: the part of the state that
no `SAMPLE` and no look at the frame read port writes (R7). -/
structure SameFeedSide (s t : State) : Prop where
  cfg : t.cfg = s.cfg
  mode : t.mode = s.mode
  drop : t.drop = s.drop
  len : t.len = s.len
  buf : t.buf = s.buf
  window : t.window = s.window
  draw : t.draw = s.draw
  inputs : t.inputs = s.inputs
  res : t.out.res = s.out.res

theorem SameFeedSide.refl (s : State) : SameFeedSide s s := ⟨rfl, rfl, rfl, rfl, rfl, rfl, rfl, rfl, rfl⟩

theorem sameFeedSide_readPort (idx : Option Nat) (s : State) : SameFeedSide s (readPort idx s) := by
  cases idx <;> exact ⟨rfl, rfl, rfl, rfl, rfl, rfl, rfl, rfl, rfl⟩

theorem sameFeedSide_readPort_sampled (idx : Option Nat) (i : Instr) (s : State) :
    SameFeedSide s (readPort idx (sampled i s)) := by
  cases idx <;> exact ⟨rfl, rfl, rfl, rfl, rfl, rfl, rfl, rfl, rfl⟩

/-- The decoder's part of a step: that of `RESET`, of the `FEED`, or of the state it began with. -/
theorem step_feedSide {s t : State} (h : step s = .next t) :
    ((presented s).rst = true ∧ SameFeedSide (resetBlock (clearOutputs (consume s))) t) ∨
    ((presented s).rst = false ∧ (presented s).feedValid = true ∧
      SameFeedSide (fed (presented s).feedByte (clearOutputs (consume s))) t) ∨
    ((presented s).rst = false ∧ (presented s).feedValid = false ∧
      SameFeedSide (clearOutputs (consume s)) t) := by
  obtain ⟨-, u, hu, rfl⟩ := step_next h
  rcases runPorts_next hu with ⟨hr, rfl⟩ | ⟨hr, v, hv, hw⟩
  · exact .inl ⟨hr, sameFeedSide_readPort _ _⟩
  · have hsample : SameFeedSide v (readPort (presented s).frameIdx u) := by
      rcases hw with ⟨-, hw⟩ | ⟨-, rfl⟩
      · obtain ⟨-, rfl⟩ := runSample_next hw
        exact sameFeedSide_readPort_sampled ..
      · exact sameFeedSide_readPort ..
    rcases hv with ⟨hf, hv⟩ | ⟨hf, rfl⟩
    · cases (runFeed_fed _ _).symm.trans hv
      exact .inr (.inl ⟨hr, hf, hsample⟩)
    · exact .inr (.inr ⟨hr, hf, hsample⟩)

/-! ## The invariant -/

/-- The invariant speaks of the decoder and the parameters alone. -/
theorem Inv.of_sameFeedSide {s t : State} (hs : Inv s) (h : SameFeedSide s t) : Inv t where
  config := by rw [h.cfg]; exact hs.config
  len_le := by rw [h.len, h.cfg]; exact hs.len_le
  dropping := by rw [h.drop, h.mode, h.len]; exact hs.dropping
  escaping := by rw [h.drop, h.mode]; exact hs.escaping
  buf_wf := by rw [h.buf]; exact hs.buf_wf
  buf_bound := by rw [h.buf, h.cfg]; exact hs.buf_bound
  partial_written := by rw [h.len, h.buf]; exact hs.partial_written
  window_whole := by rw [h.window, h.cfg, h.len, h.drop, h.mode, h.buf]; exact hs.window_whole

/-- A state with an empty frame, in `Normal` mode and with no window open, meets the invariant if the
parameters and the buffer do. -/
theorem Inv.of_empty {s t : State} (hs : Inv s) (hcfg : t.cfg = s.cfg) (hbuf : t.buf = s.buf)
    (hmode : t.mode = .normal) (hlen : t.len = 0) (hwindow : t.window = none) : Inv t where
  config := by rw [hcfg]; exact hs.config
  len_le := by omega
  dropping := fun _ => ⟨hmode, hlen⟩
  escaping := by rw [hmode]; nofun
  buf_wf := by rw [hbuf]; exact hs.buf_wf
  buf_bound := by rw [hbuf, hcfg]; exact hs.buf_bound
  partial_written := fun i hi => by omega
  window_whole := by rw [hwindow]; nofun

theorem Inv.answer_pending {s : State} (hs : Inv s) : Inv (answer .pending s) :=
  { hs with window_whole := nofun }

theorem Inv.closeDropWindow {s : State} (hs : Inv s) : Inv (answer .pending (closeDropWindow s)) :=
  { hs with dropping := nofun, escaping := fun _ => rfl, window_whole := nofun }

theorem Inv.setMode_escaped {s : State} (hs : Inv s) (hd : s.drop = false) :
    Inv (answer .pending (setMode .escaped s)) :=
  { hs with
    dropping := fun hdrop => absurd (hdrop : s.drop = true) (by simp [hd])
    escaping := fun _ => hd
    window_whole := nofun }

/-- A completed frame opens the window on the bytes written so far. -/
theorem Inv.completeFrame {s : State} (hs : Inv s) (hd : s.drop = false) (hm : s.mode = .normal)
    (hl : 0 < s.len) : Inv (completeFrame s) :=
  { hs with
    len_le := Nat.zero_le _
    dropping := fun _ => ⟨hm, rfl⟩
    partial_written := nofun
    window_whole := fun n hn => by
      cases hn
      exact ⟨hl, hs.len_le, rfl, hd, hm, hs.partial_written⟩ }

/-- A byte that fits is stored inside the capacity, right after those written before. -/
theorem Inv.append {s : State} (v : Byte) (hs : Inv s) (hd : s.drop = false)
    (hl : s.len < s.cfg.capacity) : Inv (answer .pending (setMode .normal (append v s))) :=
  { hs with
    len_le := hl
    dropping := fun hdrop => absurd (hdrop : s.drop = true) (by simp [hd])
    escaping := nofun
    buf_wf := Buffer.wf_write s.buf s.len v hs.buf_wf
    buf_bound := fun c hc => by
      rcases Buffer.mem_write hc with rfl | hc
      · exact hl
      · exact hs.buf_bound c hc
    partial_written := fun i hi => by
      rcases Nat.lt_succ_iff_lt_or_eq.1 hi with hi | rfl
      · exact Buffer.isSome_write s.len v (hs.partial_written i hi)
      · exact Option.isSome_iff_exists.2 ⟨v, Buffer.stored_write_same ..⟩
    window_whole := nofun }

/-- A `FEED` keeps the invariant. -/
theorem Inv.fed {s : State} (hs : Inv s) (b : Byte) : Inv (fed b s) := by
  rcases runFeed_cases (runFeed_fed b s) with h | ⟨-, h⟩ | ⟨hd, hm, hl, h⟩ | ⟨hd, -, h⟩ |
    ⟨v, hd, hl, h⟩ | ⟨-, -, h⟩ | ⟨-, -, h⟩ <;> rw [h]
  · exact hs.answer_pending
  · exact hs.closeDropWindow
  · exact hs.completeFrame hd hm hl
  · exact hs.setMode_escaped hd
  · exact hs.append v hd hl
  · exact hs.of_empty rfl rfl rfl rfl rfl
  · exact hs.of_empty rfl rfl rfl rfl rfl

/-- A step begins in the invariant: consuming a symbol and clearing the outputs write no part of it. -/
theorem Inv.clearOutputs_consume {s : State} (hs : Inv s) : Inv (clearOutputs (consume s)) := { hs with }

/-- Every step keeps the invariant. -/
theorem Inv.step {s t : State} (hs : Inv s) (h : step s = .next t) : Inv t := by
  have hbegin := hs.clearOutputs_consume
  rcases step_feedSide h with ⟨-, hside⟩ | ⟨-, -, hside⟩ | ⟨-, -, hside⟩
  · exact Inv.of_sameFeedSide (hbegin.of_empty (t := resetBlock _) rfl rfl rfl rfl rfl) hside
  · exact Inv.of_sameFeedSide (hbegin.fed _) hside
  · exact hbegin.of_sameFeedSide hside

/-- A step consumes one symbol and no operation writes the symbols to come (log 10). -/
theorem step_inputs {s t : State} (h : step s = .next t) : t.inputs = s.inputs.tail := by
  rcases step_feedSide h with ⟨-, hside⟩ | ⟨-, -, hside⟩ | ⟨-, -, hside⟩ <;> rw [hside.inputs]
  · rfl
  · obtain ⟨-, ⟨-, hinputs⟩, -⟩ := feedFrame_fed (presented s).feedByte (clearOutputs (consume s))
    exact hinputs
  · rfl

/-- Settles O41: each operation keeps the invariant (`Inv.step`), and none writes the parameters or the symbols
to come. -/
theorem stepKeepsTheInvariant : Obligations.StepKeepsTheInvariant :=
  fun _ _ hs h => ⟨hs.step h, step_cfg h, step_inputs h⟩

/-! ## `len` and the buffer -/

/-- A `FEED` keeps `len` and `buf`, appends one byte, or gives up the partial frame (R15, R31). -/
theorem fed_len_buf (b : Byte) (s : State) :
    ((fed b s).len = s.len ∧ (fed b s).buf = s.buf) ∨
    (s.len < s.cfg.capacity ∧ (fed b s).len = s.len + 1 ∧ (fed b s).out.res = some .pending ∧
      ∃ v, (fed b s).buf = s.buf.write s.len v) ∨
    ((fed b s).len = 0 ∧ (fed b s).buf = s.buf ∧
      ((fed b s).out.res = some (.frameReady s.len) ∨
        ∃ kind, (fed b s).out.res = some (.error kind))) := by
  rcases runFeed_cases (runFeed_fed b s) with h | ⟨-, h⟩ | ⟨-, -, -, h⟩ | ⟨-, -, h⟩ |
    ⟨v, -, hl, h⟩ | ⟨-, -, h⟩ | ⟨-, -, h⟩ <;> rw [h]
  · exact .inl ⟨rfl, rfl⟩
  · exact .inl ⟨rfl, rfl⟩
  · exact .inr (.inr ⟨rfl, rfl, .inl rfl⟩)
  · exact .inl ⟨rfl, rfl⟩
  · exact .inr (.inl ⟨hl, rfl, rfl, v, rfl⟩)
  · exact .inr (.inr ⟨rfl, rfl, .inr ⟨.overflow, rfl⟩⟩)
  · exact .inr (.inr ⟨rfl, rfl, .inr ⟨.invalidEscape, rfl⟩⟩)

/-- A step keeps `len` and `buf`, appends one byte, or gives up the partial frame (R15, R31). -/
theorem step_len_buf {s t : State} (h : step s = .next t) :
    (t.len = s.len ∧ t.buf = s.buf) ∨
    (s.len < s.cfg.capacity ∧ t.len = s.len + 1 ∧ t.out.res = some .pending ∧
      ∃ v, t.buf = s.buf.write s.len v) ∨
    (t.len = 0 ∧ t.buf = s.buf ∧
      ((presented s).rst = true ∨ t.out.res = some (.frameReady s.len) ∨
        ∃ kind, t.out.res = some (.error kind))) := by
  rcases step_feedSide h with ⟨hr, hside⟩ | ⟨-, -, hside⟩ | ⟨-, -, hside⟩ <;>
    rw [hside.len, hside.buf, hside.res]
  · exact .inr (.inr ⟨rfl, rfl, .inl hr⟩)
  · rcases fed_len_buf (presented s).feedByte (clearOutputs (consume s)) with
      hkept | happend | ⟨hlen, hbuf, hres⟩
    · exact .inl hkept
    · exact .inr (.inl happend)
    · exact .inr (.inr ⟨hlen, hbuf, .inr hres⟩)
  · exact .inl ⟨rfl, rfl⟩

/-- Settles O42, by the three cases of `step_len_buf`. -/
theorem lengthAndBufferMoveTogether : Obligations.LengthAndBufferMoveTogether := by
  intro s t h
  rcases step_len_buf h with ⟨hlen, hbuf⟩ | ⟨hroom, hlen, hres, v, hbuf⟩ | ⟨hlen, hbuf, hwhy⟩
  · exact ⟨.inl hlen, fun h => by omega, fun h => absurd hlen h, fun a ha => absurd (by rw [hbuf]) ha⟩
  · refine ⟨.inr (.inl hlen), fun _ => ⟨hroom, hres, by simp [hbuf]⟩,
      fun _ h => absurd hlen h, fun a ha => ⟨?_, hlen⟩⟩
    by_contra hne
    exact ha (by rw [hbuf, Buffer.stored_write_other _ v hne])
  · exact ⟨.inr (.inr hlen), fun h => by omega, fun _ _ => hwhy,
      fun a ha => absurd (by rw [hbuf]) ha⟩

/-! ## The frame window -/

/-- A step that reports a frame opens the window on it. -/
theorem step_frameReady {s t : State} {n : Nat} (h : step s = .next t)
    (hres : t.out.res = some (.frameReady n)) : t.window = some n := by
  rcases step_feedSide h with ⟨-, hside⟩ | ⟨-, -, hside⟩ | ⟨-, -, hside⟩ <;>
    rw [hside.res] at hres
  · cases hres
  · rw [hside.window]
    rcases runFeed_window (runFeed_fed (presented s).feedByte (clearOutputs (consume s))) with
      ⟨m, hm, hwindow⟩ | ⟨hm | ⟨kind, hm⟩, -⟩ <;> cases hm.symm.trans hres
    exact hwindow
  · cases hres

/-- Settles O43: the invariant after the step says that the window that opens is whole. -/
theorem reportedFramesAreWhole : Obligations.ReportedFramesAreWhole := by
  intro s t n hs h hres
  have hwindow := step_frameReady h hres
  obtain ⟨hpos, hle, -, -, -, hwritten⟩ := (hs.step h).window_whole n hwindow
  rw [step_cfg h] at hle
  refine ⟨hpos, hle, t.buf.bytes n, Buffer.bytes_length .., by rw [windowFrame, hwindow]; rfl,
    fun i b hb => ?_⟩
  have hi : i < n := by simpa using (List.getElem?_eq_some_iff.1 hb).1
  have hstored := Buffer.stored_of_bytes hwritten hb
  exact ⟨hstored, by rw [frameByteAt_inside hwindow hi, Buffer.read_of_stored hstored]⟩

/-- Settles O44: a step without `FEED` and `RESET` keeps the window and the buffer; `RESET` and a `FEED` that
reports no frame close the window. -/
theorem frameWindowLastsUntilFeedOrReset : Obligations.FrameWindowLastsUntilFeedOrReset := by
  intro s t h
  rcases step_feedSide h with ⟨hr, hside⟩ | ⟨hr, hf, hside⟩ | ⟨hr, hf, hside⟩
  · exact ⟨fun hr' => absurd (hr.symm.trans hr') nofun, fun _ => frameByteAt_closed hside.window⟩
  · refine ⟨fun _ hf' => absurd (hf.symm.trans hf') nofun, fun hclose => frameByteAt_closed ?_⟩
    rw [hside.window]
    rcases hclose with hr' | ⟨-, hno⟩
    · exact absurd (hr'.symm.trans hr) nofun
    · rcases runFeed_window (runFeed_fed (presented s).feedByte (clearOutputs (consume s))) with
        ⟨n, hn, -⟩ | ⟨-, hwindow⟩
      · exact absurd (hside.res.trans hn) (hno n)
      · exact hwindow
  · have hstored : ∀ i, t.buf.stored i = s.buf.stored i := fun i => by rw [hside.buf]; rfl
    refine ⟨fun _ _ => ⟨hside.window, frameByteAt_congr hside.window hstored⟩, ?_⟩
    rintro (hr' | ⟨hf', -⟩)
    · exact absurd (hr'.symm.trans hr) nofun
    · exact absurd (hf'.symm.trans hf) nofun

/-- Settles O46: the invariant says that every byte of an open window is stored. -/
theorem framePortAnswersInsideTheWindowOnly : Obligations.FramePortAnswersInsideTheWindowOnly := by
  intro s i hs
  refine ⟨fun hclosed => frameByteAt_closed hclosed i, fun n hwindow => ⟨fun hi => ?_,
    frameByteAt_beyond hwindow⟩⟩
  obtain ⟨-, -, -, -, -, hwritten⟩ := hs.window_whole n hwindow
  obtain ⟨b, hb⟩ := Option.isSome_iff_exists.1 (hwritten i hi)
  exact ⟨b, hb, by rw [frameByteAt_inside hwindow hi, Buffer.read_of_stored hb]⟩

end Sys2Proof.Machine
end

section
/-! SUPPORT. Streams: runs of `FEED`s and their results, drop windows (`60_exceptions.md` R119, R120), and the
stream encoding of a frame fed to the decoder (`40_framer.md` R80). -/

namespace Sys2Proof.Machine

/-! ## Runs of `FEED`s -/

/-- Feeding the bytes `bs` leads from `s` to `t` with the results `rs`, one per byte. -/
def FeedRun (bs : List Byte) (s : State) (rs : List DecodeResult) (t : State) : Prop :=
  ∃ os, runSymbols (bs.map feedPorts) s = some (os, t) ∧ os.map PortOutput.res = rs.map some

theorem FeedRun.nil (s : State) : FeedRun [] s [] s := ⟨[], rfl, rfl⟩

theorem FeedRun.cons {b : Byte} {bs : List Byte} {s t : State} {r : DecodeResult}
    {rs : List DecodeResult} (hc : s.cfg.WellFormed) (hr : (fed b (clearOutputs s)).out.res = some r)
    (h : FeedRun bs (fed b (clearOutputs s)) rs t) : FeedRun (b :: bs) s (r :: rs) t := by
  obtain ⟨os, hrun, hres⟩ := h
  refine ⟨(fed b (clearOutputs s)).out :: os, ?_, by simp [hr, hres]⟩
  rw [List.map_cons, runSymbols_feed_cons _ hc (runFeed_fed b _), hrun]
  rfl

theorem FeedRun.single {b : Byte} {s t : State} {r : DecodeResult} (hc : s.cfg.WellFormed)
    (hfed : fed b (clearOutputs s) = t) (hr : t.out.res = some r) : FeedRun [b] s [r] t := by
  subst hfed
  exact .cons hc hr (.nil _)

theorem FeedRun.append {bs bs' : List Byte} {s t u : State} {rs rs' : List DecodeResult}
    (h : FeedRun bs s rs t) (h' : FeedRun bs' t rs' u) : FeedRun (bs ++ bs') s (rs ++ rs') u := by
  obtain ⟨os, hrun, hres⟩ := h
  obtain ⟨os', hrun', hres'⟩ := h'
  refine ⟨os ++ os', ?_, by simp [hres, hres']⟩
  rw [List.map_append, runSymbols_append hrun, hrun']
  rfl

/-- A run that is answered: its first step, and the run after it. -/
theorem runSymbols_cons_inv {p : PortInput} {ps : List PortInput} {s t : State} {os : List PortOutput}
    (h : runSymbols (p :: ps) s = some (os, t)) :
    ∃ u os', step (present p s) = .next u ∧ runSymbols ps u = some (os', t) ∧ os = u.out :: os' := by
  cases hstep : step (present p s) with
  | next u =>
    rw [runSymbols_cons hstep, Option.map_eq_some_iff] at h
    obtain ⟨⟨os', t'⟩, hrun, heq⟩ := h
    cases heq
    exact ⟨u, os', rfl, hrun, rfl⟩
  | fault r => cases r
  | refused r =>
    rw [runSymbols, hstep] at h
    cases h

/-- A run has one output for every symbol. -/
theorem runSymbols_length {ps : List PortInput} {s t : State} {os : List PortOutput}
    (h : runSymbols ps s = some (os, t)) : os.length = ps.length := by
  induction ps generalizing s os with
  | nil => cases h; rfl
  | cons p ps ih =>
    obtain ⟨u, os', -, hrun, rfl⟩ := runSymbols_cons_inv h
    rw [List.length_cons, List.length_cons, ih hrun]

/-- Outputs whose results are all `Pending`. -/
theorem all_pending {os : List PortOutput} {n : Nat}
    (h : os.map PortOutput.res = (List.replicate n DecodeResult.pending).map some) :
    os.length = n ∧ ∀ o ∈ os, o.res = some .pending := by
  rw [List.map_replicate, List.eq_replicate_iff] at h
  exact ⟨by simpa using h.1, fun o ho => h.2 _ (List.mem_map_of_mem ho)⟩

/-- Outputs whose results are all `Pending` but the last. -/
theorem all_pending_but_last {os : List PortOutput} {n : Nat} {r : DecodeResult}
    (h : os.map PortOutput.res = (List.replicate n DecodeResult.pending ++ [r]).map some) :
    ∃ os' o, os = os' ++ [o] ∧ (∀ x ∈ os', x.res = some .pending) ∧ o.res = some r := by
  rw [List.map_append, List.map_eq_append_iff] at h
  obtain ⟨os', l, rfl, hpending, hlast⟩ := h
  obtain ⟨o, rfl, ho⟩ := List.map_eq_singleton_iff.1 hlast
  exact ⟨os', o, rfl, (all_pending hpending).2, ho⟩

/-! ## What one byte does -/

theorem fed_eq {b : Byte} {s t : State} (h : runFeed b s = .next t) : fed b s = t :=
  Host.Outcome.next.inj ((runFeed_fed b s).symm.trans h)

section
variable {s : State}

theorem fed_skip {b : Byte} (hd : s.drop = true) (hb : b ≠ s.cfg.endByte) :
    fed b s = answer .pending s :=
  (fed_eq (runFeed_dropping b hd)).trans (if_neg hb)

theorem fed_closes (hd : s.drop = true) :
    fed s.cfg.endByte s = answer .pending (closeDropWindow s) :=
  (fed_eq (runFeed_dropping s.cfg.endByte hd)).trans (if_pos rfl)

theorem fed_end (hd : s.drop = false) (hm : s.mode = .normal) (hl : 0 < s.len) :
    fed s.cfg.endByte s = completeFrame s := by
  rw [fed_eq (runFeed_normal s.cfg.endByte hd hm), if_pos rfl, if_pos hl]

theorem fed_esc (hc : s.cfg.WellFormed) (hd : s.drop = false) (hm : s.mode = .normal) :
    fed s.cfg.escByte s = answer .pending (setMode .escaped s) := by
  obtain ⟨-, hne, -⟩ := hc
  rw [fed_eq (runFeed_normal s.cfg.escByte hd hm), if_neg hne.symm, if_pos rfl]

theorem fed_invalid {b : Byte} (hd : s.drop = false) (hm : s.mode = .escaped)
    (hescEnd : b ≠ s.cfg.escEnd) (hescEsc : b ≠ s.cfg.escEsc) :
    fed b s = raiseError .invalidEscape s := by
  rw [fed_eq (runFeed_escaped b hd hm), if_neg hescEnd, if_neg hescEsc]

/-- The state after a byte that stands for the literal `x`: it is stored if it fits (R71, R73, R74), and
raises Overflow if not (R72, R78). -/
def storeOrOverflow (x : Byte) (s : State) : State :=
  if s.len < s.cfg.capacity then answer .pending (setMode .normal (append x s))
  else raiseError .overflow s

theorem fed_data {x : Byte} (hd : s.drop = false) (hm : s.mode = .normal)
    (hend : x ≠ s.cfg.endByte) (hesc : x ≠ s.cfg.escByte) : fed x s = storeOrOverflow x s := by
  have happend : setMode .normal (append x s) = append x s := by rw [← hm]; rfl
  rw [fed_eq (runFeed_normal x hd hm), if_neg hend, if_neg hesc, storeOrOverflow, happend]

theorem fed_marker (hc : s.cfg.WellFormed) (hd : s.drop = false) (hm : s.mode = .escaped)
    (marker : Marker) : fed (marker.byte s.cfg) s = storeOrOverflow (marker.literal s.cfg) s := by
  obtain ⟨-, -, -, -, -, -, hmarkers⟩ := hc
  rw [fed_eq (runFeed_escaped (marker.byte s.cfg) hd hm)]
  cases marker with
  | escEnd => exact if_pos rfl
  | escEsc => exact (if_neg hmarkers.symm).trans (if_pos rfl)

end

/-! ## Drop windows -/

/-- In a drop window bytes other than `END` change nothing (R68). -/
theorem feedRun_dropping {bs : List Byte} {s : State} (hc : s.cfg.WellFormed) (hd : s.drop = true)
    (hbs : s.cfg.endByte ∉ bs) :
    ∃ t, FeedRun bs s (.replicate bs.length .pending) t ∧ t.cfg = s.cfg ∧ t.drop = true ∧
      t.mode = s.mode ∧ t.len = s.len ∧ t.buf = s.buf := by
  induction bs generalizing s with
  | nil => exact ⟨s, .nil s, rfl, hd, rfl, rfl, rfl⟩
  | cons b bs ih =>
    obtain ⟨hb, hbs⟩ := not_or.1 (mt List.mem_cons.2 hbs)
    have hfed := fed_skip (s := clearOutputs s) hd (Ne.symm hb)
    obtain ⟨t, hrun, hrest⟩ := ih (s := answer .pending (clearOutputs s)) hc hd hbs
    exact ⟨t, .cons hc (by rw [hfed]; rfl) (by rwa [hfed]), hrest⟩

/-- Settles O50: `feedRun_dropping`, by induction on the bytes. -/
theorem dropWindowSwallowsAnyBytes : Obligations.DropWindowSwallowsAnyBytes := by
  intro s bs hc hd hbs
  obtain ⟨t, ⟨os, hrun, hres⟩, -, hdrop, hmode, hlen, hbuf⟩ := feedRun_dropping hc hd hbs
  obtain ⟨hlength, hpending⟩ := all_pending hres
  exact ⟨os, t, hrun, hpending, hlength, hdrop, hmode, hlen, fun a => by rw [hbuf]⟩

/-! ## A frame under assembly -/

/-- The decoder is in `Normal` mode, outside a drop window, and has stored the bytes `P` of a frame (R10). -/
structure Assembling (cfg : Config) (P : List Byte) (s : State) : Prop where
  cfg_eq : s.cfg = cfg
  drop : s.drop = false
  mode : s.mode = .normal
  bytes : partialFrame s = P

/-- The decoder is in a drop window, as an Overflow leaves it (R114). -/
structure AfterOverflow (cfg : Config) (s : State) : Prop where
  cfg_eq : s.cfg = cfg
  drop : s.drop = true
  mode : s.mode = .normal
  len : s.len = 0

theorem Assembling.len {cfg : Config} {P : List Byte} {s : State} (h : Assembling cfg P s) :
    s.len = P.length := by
  rw [← h.bytes, partialFrame, Buffer.bytes_length]

/-- Between frames no byte is stored. -/
theorem assembling_nil {s : State} (hd : s.drop = false) (hm : s.mode = .normal) (hl : s.len = 0) :
    Assembling s.cfg [] s :=
  ⟨rfl, hd, hm, by rw [partialFrame, hl, Buffer.bytes_zero]⟩

/-- The result of storing a literal where `n` bytes are stored. -/
def storeResult (cfg : Config) (n : Nat) : DecodeResult :=
  if n < cfg.capacity then .pending else .error .overflow

/-- What storing a literal makes of the bytes `P` stored before: they grow by it, or Overflow. -/
structure StoresOrOverflows (cfg : Config) (P : List Byte) (x : Byte) (t : State) : Prop where
  stored : P.length < cfg.capacity → Assembling cfg (P ++ [x]) t
  overflowed : cfg.capacity ≤ P.length → AfterOverflow cfg t

/-- Feeding one byte that stands for the literal `x`. -/
theorem feedRun_literal {b x : Byte} {s : State} (hc : s.cfg.WellFormed) (hd : s.drop = false)
    (hfed : fed b (clearOutputs s) = storeOrOverflow x (clearOutputs s)) :
    ∃ t, FeedRun [b] s [storeResult s.cfg s.len] t ∧ StoresOrOverflows s.cfg (partialFrame s) x t := by
  have hlen : (partialFrame s).length = s.len := Buffer.bytes_length ..
  by_cases hfits : s.len < s.cfg.capacity
  · have hstore : storeOrOverflow x (clearOutputs s) =
        answer .pending (setMode .normal (append x (clearOutputs s))) := if_pos hfits
    refine ⟨_, .single hc (hfed.trans hstore) ?_, fun _ => ?_, fun h => ?_⟩
    · rw [storeResult, if_pos hfits]
      rfl
    · exact ⟨rfl, hd, rfl, Buffer.bytes_write s.buf s.len x⟩
    · omega
  · have hstore : storeOrOverflow x (clearOutputs s) = raiseError .overflow (clearOutputs s) :=
      if_neg hfits
    refine ⟨_, .single hc (hfed.trans hstore) ?_, fun h => ?_, fun _ => ⟨rfl, rfl, rfl, rfl⟩⟩
    · rw [storeResult, if_neg hfits]
      rfl
    · omega

/-! ## The escape form of one byte -/

/-- A byte is escaped as a marker after `ESC`, or stands for itself (R63). -/
theorem slipEscape_cases (cfg : Config) (x : Byte) :
    (∃ marker : Marker, x = marker.literal cfg ∧
      slipEscape cfg x = [cfg.escByte, marker.byte cfg]) ∨
    (x ≠ cfg.endByte ∧ x ≠ cfg.escByte ∧ slipEscape cfg x = [x]) := by
  unfold slipEscape
  split
  · next hend => exact .inl ⟨.escEnd, hend, rfl⟩
  · next hend =>
    split
    · next hesc => exact .inl ⟨.escEsc, hesc, rfl⟩
    · next hesc => exact .inr ⟨hend, hesc, rfl⟩

/-- Feeding the escape form of one byte: its last byte stores it or raises Overflow, the byte before it, if
any, gives `Pending`. -/
theorem feedRun_slipEscape {cfg : Config} {P : List Byte} {s : State} (hc : cfg.WellFormed)
    (h : Assembling cfg P s) (x : Byte) :
    ∃ k t, (slipEscape cfg x).length = k + 1 ∧
      FeedRun (slipEscape cfg x) s (.replicate k .pending ++ [storeResult cfg P.length]) t ∧
      StoresOrOverflows cfg P x t := by
  rw [← h.len]
  obtain ⟨rfl, hd, hm, rfl⟩ := h
  rcases slipEscape_cases s.cfg x with ⟨marker, rfl, hform⟩ | ⟨hend, hesc, hform⟩ <;> rw [hform]
  · have hfirst := FeedRun.single hc (fed_esc (s := clearOutputs s) hc hd hm) rfl
    obtain ⟨t, hlast, hspec⟩ :=
      feedRun_literal (s := answer .pending (setMode .escaped (clearOutputs s))) hc hd
        (fed_marker (s := clearOutputs (answer .pending (setMode .escaped (clearOutputs s)))) hc hd rfl
          marker)
    exact ⟨1, t, rfl, hfirst.append hlast, hspec⟩
  · obtain ⟨t, hrun, hspec⟩ :=
      feedRun_literal hc hd (fed_data (s := clearOutputs s) hd hm hend hesc)
    exact ⟨0, t, rfl, hrun, hspec⟩

/-! ## The encoding of a frame -/

theorem slipBody_append (cfg : Config) (S S' : List Byte) :
    slipBody cfg (S ++ S') = slipBody cfg S ++ slipBody cfg S' := by
  induction S with
  | nil => rfl
  | cons x S ih => simp only [List.cons_append, slipBody, ih, List.append_assoc]

/-- Feeding the escaped bytes of a sequence that fits stores it, every byte giving `Pending`. -/
theorem feedRun_slipBody {cfg : Config} (hc : cfg.WellFormed) (S : List Byte) {P : List Byte} {s : State}
    (h : Assembling cfg P s) (hfits : P.length + S.length ≤ cfg.capacity) :
    ∃ t, FeedRun (slipBody cfg S) s (.replicate (slipBody cfg S).length .pending) t ∧
      Assembling cfg (P ++ S) t := by
  induction S generalizing P s with
  | nil => exact ⟨s, .nil s, by rwa [List.append_nil]⟩
  | cons x S ih =>
    rw [List.length_cons] at hfits
    have hroom : P.length < cfg.capacity := by omega
    obtain ⟨k, u, hk, hrun, hspec⟩ := feedRun_slipEscape hc h x
    obtain ⟨t, hrun', ht⟩ := ih (hspec.stored hroom) (by
      rw [List.length_append, List.length_singleton]
      omega)
    refine ⟨t, ?_, by simpa using ht⟩
    have hall := hrun.append hrun'
    rw [storeResult, if_pos hroom, ← List.replicate_succ', ← hk, List.replicate_append_replicate,
      ← List.length_append] at hall
    exact hall

/-- `END` after the bytes `P` of a frame reports it and ends between frames (R70). -/
theorem feedRun_end {cfg : Config} {P : List Byte} {s : State} (hc : cfg.WellFormed)
    (h : Assembling cfg P s) (hP : 1 ≤ P.length) :
    ∃ t, FeedRun [cfg.endByte] s [.frameReady P.length] t ∧ windowFrame t = some P ∧
      t.drop = false ∧ t.mode = .normal ∧ t.len = 0 := by
  rw [← h.len] at hP ⊢
  obtain ⟨rfl, hd, hm, rfl⟩ := h
  have hfed := fed_end (s := clearOutputs s) hd hm hP
  exact ⟨_, .single hc hfed rfl, rfl, hd, hm, rfl⟩

/-- Feeding `slip_encode(S)` between frames. -/
theorem feedRun_slipEncode {cfg : Config} {S : List Byte} {s : State} (hc : cfg.WellFormed)
    (h : Assembling cfg [] s) (hS : 1 ≤ S.length) (hfits : S.length ≤ cfg.capacity) :
    ∃ t, FeedRun (slipEncode cfg S) s
        (.replicate (slipBody cfg S).length .pending ++ [.frameReady S.length]) t ∧
      windowFrame t = some S ∧ t.drop = false ∧ t.mode = .normal ∧ t.len = 0 := by
  obtain ⟨u, hrun, hu⟩ := feedRun_slipBody hc S h (by simpa using hfits)
  obtain ⟨t, hend, ht⟩ := feedRun_end hc hu hS
  exact ⟨t, hrun.append hend, ht⟩

/-- Settles O52: `feedRun_slipBody`, by induction on the frame, then its `END`. -/
theorem framingRoundTrip : Obligations.FramingRoundTrip := by
  intro s S hc hd hm hl hS hfits
  obtain ⟨t, ⟨os, hrun, hres⟩, ht⟩ := feedRun_slipEncode hc (assembling_nil hd hm hl) hS hfits
  obtain ⟨os', o, rfl, hpending, hlast⟩ := all_pending_but_last hres
  exact ⟨os', o, t, hrun, hpending, hlast, ht⟩

/-- Settles O51: InvalidEscape leaves the decoder between frames, and the bytes that follow are a frame of
their own. -/
theorem tailAfterInvalidEscapeIsReported : Obligations.TailAfterInvalidEscapeIsReported := by
  intro s b S hc hd hm hescEnd hescEsc hS hfits
  have hfed := fed_invalid (s := clearOutputs s) hd hm hescEnd hescEsc
  obtain ⟨t, htail, hwindow, -⟩ :=
    feedRun_slipEncode (s := raiseError .invalidEscape (clearOutputs s)) hc
      (assembling_nil (s := raiseError .invalidEscape (clearOutputs s)) hd rfl rfl) hS hfits
  obtain ⟨os, hrun, hres⟩ := (FeedRun.single hc hfed rfl).append htail
  obtain ⟨e, os, rfl, he, hrest⟩ := List.map_eq_cons_iff.1 hres
  obtain ⟨os', o, rfl, hpending, hlast⟩ := all_pending_but_last hrest
  exact ⟨os', o, e, t, hrun, he, hpending, hlast, hwindow⟩

/-! ## A frame that does not fit -/

/-- A sequence longer than the capacity is the bytes that fit, the byte that does not, and the rest. -/
theorem exists_split_at_capacity {C : Nat} {S : List Byte} (h : C < S.length) :
    ∃ P x Q, S = P ++ x :: Q ∧ P.length = C ∧ S.take (C + 1) = P ++ [x] :=
  ⟨S.take C, S[C], S.drop (C + 1), by rw [List.getElem_cons_drop, List.take_append_drop],
    List.length_take_of_le h.le, List.take_succ_eq_append_getElem h⟩

/-- The `END` that closes a drop window (R69). -/
theorem feedRun_closes {cfg : Config} {s : State} (hc : cfg.WellFormed) (h : AfterOverflow cfg s) :
    ∃ t, FeedRun [cfg.endByte] s [.pending] t ∧ t.drop = false ∧ t.mode = .normal ∧ t.len = 0 ∧
      t.window = none := by
  obtain ⟨rfl, hd, hm, hl⟩ := h
  have hfed := fed_closes (s := clearOutputs s) hd
  exact ⟨_, .single hc hfed rfl, rfl, hm, hl, rfl⟩

/-- Feeding `slip_encode(S)` between frames when `S` does not fit: one Overflow, at the last byte of the escape
form of stored byte `C + 1`. -/
theorem feedRun_slipEncode_overflow {cfg : Config} {S : List Byte} {s : State} (hc : cfg.WellFormed)
    (h : Assembling cfg [] s) (hS : cfg.capacity < S.length) :
    ∃ n m t, FeedRun (slipEncode cfg S) s
        (.replicate n .pending ++ .error .overflow :: .replicate m .pending) t ∧
      (slipBody cfg (S.take (cfg.capacity + 1))).length = n + 1 ∧
      t.drop = false ∧ t.mode = .normal ∧ t.len = 0 ∧ t.window = none := by
  obtain ⟨P, x, Q, hsplit, hP, htake⟩ := exists_split_at_capacity hS
  obtain ⟨u, hstored, hu⟩ := feedRun_slipBody hc P h (by simp [hP])
  obtain ⟨k, v, hk, hescape, hspec⟩ := feedRun_slipEscape hc hu x
  have hv := hspec.overflowed (by simp [hP])
  obtain ⟨w, hdropped, hw⟩ : ∃ w,
      FeedRun (slipBody cfg Q) v (.replicate (slipBody cfg Q).length .pending) w ∧
        AfterOverflow cfg w := by
    obtain ⟨rfl, hd, hm, hl⟩ := hv
    obtain ⟨w, hrun, hcfg, hd', hm', hl', -⟩ :=
      feedRun_dropping (bs := slipBody v.cfg Q) hc hd (escapedBytesHoldNoTerminator v.cfg Q hc)
    exact ⟨w, hrun, hcfg, hd', hm'.trans hm, hl'.trans hl⟩
  obtain ⟨t, hend, ht⟩ := feedRun_closes hc hw
  refine ⟨(slipBody cfg P).length + k, (slipBody cfg Q).length + 1, t, ?_, ?_, ht⟩
  · have hall := (hstored.append hescape).append (hdropped.append hend)
    have hfull : storeResult cfg ([] ++ P).length = .error .overflow := if_neg (by simp [hP])
    have hbytes : (slipBody cfg P ++ slipEscape cfg x) ++ (slipBody cfg Q ++ [cfg.endByte]) =
        slipEncode cfg S := by
      rw [slipEncode, hsplit, slipBody_append, slipBody]
      simp only [List.append_assoc]
    rw [hbytes, hfull, ← List.replicate_succ', ← List.append_assoc,
      List.replicate_append_replicate, List.append_assoc] at hall
    exact hall
  · rw [htake, slipBody_append]
    simp [slipBody, hk, Nat.add_assoc]

/-- The entries of a list with one exceptional entry, by index. -/
theorem getElem?_replicate_cons_replicate {α : Type} {n m j : Nat} {a e r : α}
    (h : (List.replicate n a ++ e :: List.replicate m a)[j]? = some r) :
    r = if j = n then e else a := by
  rcases Nat.lt_trichotomy j n with hj | rfl | hj
  · rw [List.getElem?_append_left (by simpa using hj), List.getElem?_replicate, if_pos hj] at h
    rw [if_neg hj.ne, Option.some.inj h]
  · rw [List.getElem?_append_right (by simp)] at h
    simpa using h.symm
  · rw [List.getElem?_append_right (by simpa using hj.le)] at h
    obtain ⟨i, hi⟩ : ∃ i, j - n = i + 1 := ⟨j - n - 1, by omega⟩
    rw [List.length_replicate, hi, List.getElem?_cons_succ] at h
    rw [if_neg hj.ne', List.eq_of_mem_replicate (List.mem_of_getElem? h)]

/-- Settles O53: the results are those of `feedRun_slipEncode_overflow`, read off by index. -/
theorem overflowContainment : Obligations.OverflowContainment := by
  intro s S hc hd hm hl hS
  obtain ⟨n, m, t, ⟨os, hrun, hres⟩, hn, ht⟩ :=
    feedRun_slipEncode_overflow hc (assembling_nil hd hm hl) hS
  refine ⟨os, t, hrun, by simpa using runSymbols_length hrun, fun j o hj => ?_, ht⟩
  have hentry : (os.map PortOutput.res)[j]? = some o.res := by rw [List.getElem?_map, hj]; rfl
  rw [hres, List.map_append, List.map_cons, List.map_replicate, List.map_replicate] at hentry
  simp only [getElem?_replicate_cons_replicate hentry, hn, Nat.add_right_cancel_iff, apply_ite some]

end Sys2Proof.Machine
end

section
/-! SUPPORT. The decoder and the input side do not interfere (`00_scope.md` R7): a run with the `SAMPLE`s left
out, and a run with the `FEED`s left out. -/

namespace Sys2Proof.Machine

/-! ## Simulations of runs -/

/-- If the steps of `f p` keep a relation with those of `p` and show the same observation, so do the runs. -/
theorem runSymbols_simulates {α : Type} {R : State → State → Prop} {f : PortInput → PortInput}
    {obs : PortOutput → α}
    (hstep : ∀ {p s s' t}, R s s' → step (present p s) = .next t →
      ∃ t', step (present (f p) s') = .next t' ∧ R t t' ∧ obs t'.out = obs t.out)
    {ps : List PortInput} {s s' t : State} {os : List PortOutput} (hR : R s s')
    (h : runSymbols ps s = some (os, t)) :
    ∃ os' t', runSymbols (ps.map f) s' = some (os', t') ∧ R t t' ∧ os'.map obs = os.map obs := by
  induction ps generalizing s s' os with
  | nil =>
    cases h
    exact ⟨[], s', rfl, hR, rfl⟩
  | cons p ps ih =>
    obtain ⟨u, os, hu, hrun, rfl⟩ := runSymbols_cons_inv h
    obtain ⟨u', hu', hRu, hobs⟩ := hstep hR hu
    obtain ⟨os', t', hrun', hRt, hall⟩ := ih hRu hrun
    refine ⟨u'.out :: os', t', ?_, hRt, by rw [List.map_cons, List.map_cons, hobs, hall]⟩
    rw [List.map_cons, runSymbols_cons hu', hrun']
    rfl

/-- A step that gives a next state presented legal symbols (R62). -/
theorem legalPorts_of_step {s t : State} (h : step s = .next t) : legalPorts (presented s) = true := by
  by_contra hlegal
  have hrefused := (stepRefusesWhatTheSpecRefuses s).1 (step_next h).1 (Bool.eq_false_iff.2 hlegal)
  cases hrefused.symm.trans h

/-! ## The decoder without the `SAMPLE`s -/

theorem SameFeedSide.symm {s t : State} (h : SameFeedSide s t) : SameFeedSide t s :=
  ⟨h.cfg.symm, h.mode.symm, h.drop.symm, h.len.symm, h.buf.symm, h.window.symm, h.draw.symm,
    h.inputs.symm, h.res.symm⟩

theorem SameFeedSide.trans {s t u : State} (h : SameFeedSide s t) (h' : SameFeedSide t u) :
    SameFeedSide s u :=
  ⟨h'.cfg.trans h.cfg, h'.mode.trans h.mode, h'.drop.trans h.drop, h'.len.trans h.len,
    h'.buf.trans h.buf, h'.window.trans h.window, h'.draw.trans h.draw, h'.inputs.trans h.inputs,
    h'.res.trans h.res⟩

/-- What an operation of `FD` makes of the buffer depends on the buffer, `len` and the parameters. -/
theorem nextState_buf_congr {cfg : Config} {i : Instr} {b : Byte} {s s' : State}
    (he : encode cfg i = .feed8 b) (hcfg : s'.cfg = s.cfg) (hbuf : s'.buf = s.buf)
    (hlen : s'.len = s.len) : (nextState i s').buf = (nextState i s).buf := by
  have hwrite : ∀ v, s'.buf.write s'.len v = s.buf.write s.len v := fun v => by rw [hbuf, hlen]
  have hliteral : ∀ marker : Marker, s'.buf.write s'.len (marker.literal s'.cfg) =
      s.buf.write s.len (marker.literal s.cfg) := fun marker => by rw [hwrite, hcfg]
  cases i with
  | fdNData b => exact hwrite b
  | fdEEscEnd => exact hliteral .escEnd
  | fdEEscEsc => exact hliteral .escEsc
  | fdDropEnd | fdDropSkip | fdNEndFrame | fdNEndEmpty | fdNEsc | fdNDataOvf | fdEOvf | fdEInvalid =>
    exact hbuf
  | _ => cases he

/-- A `FEED` makes the same of two states with the same decoder. -/
theorem SameFeedSide.fed {s s' : State} (h : SameFeedSide s s') (b : Byte) :
    SameFeedSide (fed b s) (fed b s') := by
  have hcontrol := sameControl_fed h.cfg h.mode h.drop h.len b
  have hbuf : (Machine.fed b s').buf = (Machine.fed b s).buf := by
    unfold Machine.fed
    rw [decodeFeed_congr h.cfg h.mode h.drop h.len b]
    exact nextState_buf_congr (encode_decodeFeed s.cfg s.context b) h.cfg h.buf h.len
  obtain ⟨-, ⟨hcfg, hinputs⟩, hdraw, -⟩ := feedFrame_fed b s
  obtain ⟨-, ⟨hcfg', hinputs'⟩, hdraw', -⟩ := feedFrame_fed b s'
  exact ⟨by rw [hcfg, hcfg', h.cfg], hcontrol.mode, hcontrol.drop, hcontrol.len, hbuf, hcontrol.window,
    by rw [hdraw, hdraw', h.draw], by rw [hinputs, hinputs', h.inputs], hcontrol.res⟩

/-- The decoder's part of the operations of a step. -/
def feedHalf (p : PortInput) (s : State) : State :=
  if p.rst then resetBlock s else if p.feedValid then fed p.feedByte s else s

theorem step_feedHalf {p : PortInput} {s t : State} (h : step (present p s) = .next t) :
    SameFeedSide (feedHalf p (clearOutputs s)) t := by
  unfold feedHalf
  rcases step_feedSide h with ⟨hr, hside⟩ | ⟨hr, hf, hside⟩ | ⟨hr, hf, hside⟩ <;>
    rw [presented_present] at hr
  · rwa [if_pos hr]
  · rw [presented_present] at hf
    rwa [if_neg (by simp [hr]), if_pos hf]
  · rw [presented_present] at hf
    rwa [if_neg (by simp [hr]), if_neg (by simp [hf])]

theorem SameFeedSide.clearOutputs {s s' : State} (h : SameFeedSide s s') :
    SameFeedSide (clearOutputs s) (clearOutputs s') :=
  ⟨h.cfg, h.mode, h.drop, h.len, h.buf, h.window, h.draw, h.inputs, rfl⟩

theorem SameFeedSide.feedHalf {s s' : State} (h : SameFeedSide s s') (p : PortInput) :
    SameFeedSide (feedHalf p s) (feedHalf p s') := by
  unfold Machine.feedHalf
  split
  · exact ⟨h.cfg, rfl, rfl, rfl, h.buf, rfl, congrArg (· + 1) h.draw, h.inputs, rfl⟩
  · split
    · exact h.fed p.feedByte
    · exact h

/-- The look at the frame read port is the only output of `frame_byte` (log 11). -/
theorem step_frameByte {s t : State} (h : step s = .next t) :
    t.out.frameByte = (presented s).frameIdx.map (frameByteAt t) := by
  obtain ⟨-, u, hu, rfl⟩ := step_next h
  have hnone : u.out.frameByte = none := by
    rcases runPorts_next hu with ⟨-, rfl⟩ | ⟨-, v, hv, hw⟩
    · rfl
    · have hfeed : v.out.frameByte = none := by
        rcases hv with ⟨-, hv⟩ | ⟨-, rfl⟩
        · obtain ⟨-, -, -, -, -, hframe⟩ := feedFrame_runFeed hv
          exact hframe
        · rfl
      rcases hw with ⟨-, hw⟩ | ⟨-, rfl⟩
      · obtain ⟨-, rfl⟩ := runSample_next hw
        exact hfeed
      · exact hfeed
  cases (presented s).frameIdx with
  | none => exact hnone
  | some i => rfl

/-- The same step without its `SAMPLE` does the same to the decoder and shows the same of it. -/
theorem step_feedOnly {p : PortInput} {s s' t : State} (hs : SameFeedSide s s')
    (h : step (present p s) = .next t) :
    ∃ t', step (present p.feedOnly s') = .next t' ∧ SameFeedSide t t' ∧
      (t'.out.res, t'.out.frameByte) = (t.out.res, t.out.frameByte) := by
  have hc : s'.cfg.WellFormed := hs.cfg ▸ (step_next h).1
  obtain ⟨t', ht'⟩ := stepAnswersEveryLegalSymbol (present p.feedOnly s') hc (by
    simp [legalPorts, PortInput.feedOnly])
  have hside : SameFeedSide t t' :=
    (step_feedHalf h).symm.trans
      ((hs.clearOutputs.feedHalf p).trans (step_feedHalf (p := p.feedOnly) ht'))
  refine ⟨t', ht', hside, ?_⟩
  have hport : frameByteAt t' = frameByteAt t :=
    funext (frameByteAt_congr hside.window fun i => by rw [hside.buf])
  rw [step_frameByte h, step_frameByte ht', hport, hside.res]
  rfl

/-! ## The input side without the `FEED`s -/

/-- `t` has the input side, the parameters, the message and the action of `s`: the part of the state that no
`FEED` and no look at the frame read port writes (R7). -/
structure SameSampleSide (s t : State) : Prop where
  cfg : t.cfg = s.cfg
  key : t.key = s.key
  last : t.last = s.last
  msg : t.out.msg = s.out.msg
  act : t.out.act = s.out.act

theorem SameSampleSide.refl (s : State) : SameSampleSide s s := ⟨rfl, rfl, rfl, rfl, rfl⟩

theorem SameSampleSide.symm {s t : State} (h : SameSampleSide s t) : SameSampleSide t s :=
  ⟨h.cfg.symm, h.key.symm, h.last.symm, h.msg.symm, h.act.symm⟩

theorem SameSampleSide.trans {s t u : State} (h : SameSampleSide s t) (h' : SameSampleSide t u) :
    SameSampleSide s u :=
  ⟨h'.cfg.trans h.cfg, h'.key.trans h.key, h'.last.trans h.last, h'.msg.trans h.msg,
    h'.act.trans h.act⟩

theorem SameSampleSide.clearOutputs {s s' : State} (h : SameSampleSide s s') :
    SameSampleSide (clearOutputs s) (clearOutputs s') := ⟨h.cfg, h.key, h.last, rfl, rfl⟩

/-- A `SAMPLE` makes the same of two states with the same input side. -/
theorem SameSampleSide.sampled {s s' : State} (h : SameSampleSide s s') (i : Instr) :
    SameSampleSide (sampled i s) (sampled i s') := by
  constructor <;> simp [h.cfg, h.key, h.last]

/-- The input side's part of the operations of a step. -/
def sampleHalf (p : PortInput) (s : State) : State :=
  if p.rst then resetBlock s else if p.sampleValid then sampled (decodeEvent p.ev) s else s

theorem SameSampleSide.sampleHalf {s s' : State} (h : SameSampleSide s s') (p : PortInput) :
    SameSampleSide (sampleHalf p s) (sampleHalf p s') := by
  unfold Machine.sampleHalf
  split
  · exact ⟨h.cfg, rfl, rfl, rfl, rfl⟩
  · split
    · exact h.sampled (decodeEvent p.ev)
    · exact h

theorem sameSampleSide_readPort (idx : Option Nat) (s : State) : SameSampleSide s (readPort idx s) := by
  cases idx <;> exact ⟨rfl, rfl, rfl, rfl, rfl⟩

theorem sameSampleSide_runFeed {b : Byte} {s t : State} (h : runFeed b s = .next t) :
    SameSampleSide s t := by
  obtain ⟨⟨hkey, hlast⟩, ⟨hcfg, -⟩, -, hmsg, hact, -⟩ := feedFrame_runFeed h
  exact ⟨hcfg, hkey, hlast, hmsg, hact⟩

theorem step_sampleHalf {p : PortInput} {s t : State} (h : step (present p s) = .next t) :
    SameSampleSide (sampleHalf p (clearOutputs s)) t := by
  obtain ⟨-, u, hu, rfl⟩ := step_next h
  rw [presented_present, consume_present] at *
  refine SameSampleSide.trans ?_ (sameSampleSide_readPort _ u)
  unfold sampleHalf
  rcases runPorts_next hu with ⟨hr, rfl⟩ | ⟨hr, v, hv, hw⟩
  · rw [if_pos hr]
    exact .refl _
  · rw [if_neg (by simp [hr])]
    have hfeed : SameSampleSide (clearOutputs s) v := by
      rcases hv with ⟨-, hv⟩ | ⟨-, rfl⟩
      · exact sameSampleSide_runFeed hv
      · exact .refl _
    rcases hw with ⟨hs, hw⟩ | ⟨hs, rfl⟩
    · obtain ⟨-, rfl⟩ := runSample_next hw
      rw [if_pos hs]
      exact hfeed.sampled _
    · rwa [if_neg (by simp [hs])]

/-- The same step without its `FEED` does the same to the input side and shows the same of it. -/
theorem step_sampleOnly {p : PortInput} {s s' t : State} (hs : SameSampleSide s s')
    (h : step (present p s) = .next t) :
    ∃ t', step (present p.sampleOnly s') = .next t' ∧ SameSampleSide t t' ∧
      (t'.out.msg, t'.out.act) = (t.out.msg, t.out.act) := by
  have hc : s'.cfg.WellFormed := hs.cfg ▸ (step_next h).1
  have hlegal : legalPorts p.sampleOnly = true := legalPorts_of_step h
  obtain ⟨t', ht'⟩ := stepAnswersEveryLegalSymbol (present p.sampleOnly s') hc hlegal
  have hside : SameSampleSide t t' :=
    (step_sampleHalf h).symm.trans
      ((hs.clearOutputs.sampleHalf p).trans (step_sampleHalf (p := p.sampleOnly) ht'))
  exact ⟨t', ht', hside, by rw [hside.msg, hside.act]⟩

/-! ## Both over any run -/

/-- Two observations that agree as pairs agree one by one. -/
theorem map_eq_of_map_pair_eq {α β γ : Type} {f : α → β} {g : α → γ} {l l' : List α}
    (h : l'.map (fun a => (f a, g a)) = l.map (fun a => (f a, g a))) :
    l'.map f = l.map f ∧ l'.map g = l.map g := by
  constructor
  · simpa [Function.comp_def] using congrArg (List.map Prod.fst) h
  · simpa [Function.comp_def] using congrArg (List.map Prod.snd) h

/-- Settles O54: the two runs are simulated step by step, one side of the state at a time. -/
theorem feedsAndSamplesDoNotInterfere : Obligations.FeedsAndSamplesDoNotInterfere := by
  intro ps s t os hrun
  constructor
  · obtain ⟨os', t', hrun', hside, hobs⟩ := runSymbols_simulates (R := SameFeedSide)
      (obs := fun o => (o.res, o.frameByte)) step_feedOnly (.refl s) hrun
    exact ⟨os', t', hrun', ⟨hside.mode, hside.drop, hside.len, hside.window, hside.draw,
      fun a => by rw [hside.buf]⟩, map_eq_of_map_pair_eq hobs⟩
  · obtain ⟨os', t', hrun', hside, hobs⟩ := runSymbols_simulates (R := SameSampleSide)
      (obs := fun o => (o.msg, o.act)) step_sampleOnly (.refl s) hrun
    exact ⟨os', t', hrun', ⟨hside.key, hside.last⟩, map_eq_of_map_pair_eq hobs⟩

end Sys2Proof.Machine
end
